-- ==== Sys2Proof/Word.lean ====
section
/-! DEFINITION. The words and plain value types of RTC-CODEC: bytes, the request and response words, the request as the
record of its six input fields, and the values the host hands to and takes from the codec. -/

namespace Sys2Proof

/-- `u8` of rule R12: every operand, result, register and register address (R61). -/
abbrev Byte := BitVec 8

/-- The request word `REQ[37:0]` of rule R90. -/
abbrev ReqWord := BitVec 38

/-- The response word `RSP[47:0]` of rule R91. -/
abbrev RspWord := BitVec 48

/-- The block's inputs (R25): the request as the record of its six fields (R90). -/
structure Request where
  op  : BitVec 4
  fmt : BitVec 2
  d0  : Byte
  d1  : Byte
  d2  : Byte
  d3  : Byte
  deriving DecidableEq, Repr, Inhabited

/-- The format tag of a time value: the three variants of rule R15. -/
inductive Format where
  | h24
  | h12am
  | h12pm
  deriving DecidableEq, Repr, Inhabited

/-- The six square-wave modes of rules R15 and R99. -/
inductive SqwMode where
  | low
  | hz1
  | hz4096
  | hz8192
  | hz32768
  | high
  deriving DecidableEq, Repr, Inhabited

/-- A time value (R22). The format is carried as its 2-bit code (R98), the reserved code included, as R22 takes it. -/
structure TimeValue where
  seconds : Byte
  minutes : Byte
  hours   : Byte
  format  : BitVec 2
  deriving DecidableEq, Repr, Inhabited

/-- A date value (R22). -/
structure DateValue where
  day   : Byte
  date  : Byte
  month : Byte
  year  : Byte
  deriving DecidableEq, Repr, Inhabited

end Sys2Proof
end

