-- ==== Sys2Proof/Machine/RegisterMap.lean ====
section
/-! DEFINITION. The fixed protocol constants of rule R9, the device's register map (R30 to R38), and the fields the spec
gives inside a register's byte. -/

namespace Sys2Proof.Machine

/-- `DEV_ADDR`, the device's bus address. -/
def devAddr : Byte := 0x68#8

/-- Register addresses (R9, R68). -/
def regSec : Byte := 0x00#8
def regMin : Byte := 0x01#8
def regHour : Byte := 0x02#8
def regDay : Byte := 0x03#8
def regDate : Byte := 0x04#8
def regMonth : Byte := 0x05#8
def regYear : Byte := 0x06#8
def regCtrl : Byte := 0x07#8

/-- High nibble of a byte: the tens digit of a BCD byte (R11, R61). -/
def highNibble (b : Byte) : Nat := b.toNat / 16

/-- Low nibble of a byte: the units digit of a BCD byte (R11, R61). -/
def lowNibble (b : Byte) : Nat := b.toNat % 16

/-- `CH_BIT`: bit 7 of the seconds register (R9, R31). -/
def chBit (b : Byte) : Bool := b.getLsbD 7

/-- `H12_BIT`: bit 6 of the hours register (R9, R33). -/
def h12Bit (b : Byte) : Bool := b.getLsbD 6

/-- `PM_BIT`: bit 5 of the hours register, an AM/PM bit in the 12-hour format only (R9, R33). -/
def pmBit (b : Byte) : Bool := b.getLsbD 5

/-- Masks of rules R140, R142, R143 and R145. -/
def maskCh : Byte := 0x7F#8
def maskH12 : Byte := 0xBF#8
def maskPm : Byte := 0xDF#8
def setH12 : Byte := 0x40#8
def setH12Pm : Byte := 0x60#8
def maskHours12 : Byte := 0x1F#8
def maskHours24 : Byte := 0x3F#8

/-- A valid BCD byte: both nibbles 0 to 9 (R15). -/
def validBcd (b : Byte) : Bool := decide (highNibble b ≤ 9 ∧ lowNibble b ≤ 9)

/-- The device's own time-keeping changes 0x00 to 0x06 and nothing else (R278). -/
def isTimeRegister (a : Nat) : Bool := decide (a ≤ regYear.toNat)

/-- The eight control, time and date registers 0x00 to 0x07 (R28, R68). -/
def isRegister (a : Nat) : Bool := decide (a ≤ regCtrl.toNat)

end Sys2Proof.Machine
end

