-- ==== Sys2Proof/Machine/Operands.lean ====
section
/-! DEFINITION. The named pure functions of rule R14 that compute a lane: the BCD functions and the byte encoders and
decoders, each total on its width. Operands are converted to numbers, computed exactly, and narrowed at the end. -/

namespace Sys2Proof.Machine

/-- `b2bcd` (R130): quotient by 10 in the high nibble, remainder in the low nibble, truncated to 8 bits (R133). -/
def b2bcd (v : Byte) : Byte := BitVec.ofNat 8 (v.toNat / 10 * 16 + v.toNat % 10)

/-- `bcd2b` (R131): ten times the high nibble plus the low nibble, at most 165, malformed nibbles included (R132). -/
def bcd2b (b : Byte) : Byte := BitVec.ofNat 8 (highNibble b * 10 + lowNibble b)

/-- `enc_sec` (R140): bit 7 is forced to 0. -/
def encSec (s : Byte) : Byte := b2bcd s &&& maskCh

/-- `enc_min` (R141): no mask. -/
def encMin (m : Byte) : Byte := b2bcd m

/-- `enc_hr` (R142): bit 6, and in the 12-hour formats bit 5, are forced. -/
def encHr (h : Byte) : Format → Byte
  | .h24 => b2bcd h &&& maskH12
  | .h12am => (b2bcd h ||| setH12) &&& maskPm
  | .h12pm => b2bcd h ||| setH12Pm

/-- `dec_sec` (R143): bit 7 is masked off. -/
def decSec (b : Byte) : Byte := bcd2b (b &&& maskCh)

/-- `dec_min` (R144): no mask (log 16). -/
def decMin (b : Byte) : Byte := bcd2b b

/-- The format half of `dec_hr` (R145). -/
def decHrFormat (b : Byte) : Format :=
  if h12Bit b then (if pmBit b then .h12pm else .h12am) else .h24

/-- The hours half of `dec_hr` (R145): the low 5 or the low 6 bits. -/
def decHrHours (b : Byte) : Byte :=
  if h12Bit b then bcd2b (b &&& maskHours12) else bcd2b (b &&& maskHours24)

/-- `dec_hr` (R145). -/
def decHr (b : Byte) : Byte × Format := (decHrHours b, decHrFormat b)

/-- The byte of a date register (R160): all four alike. -/
def encDateField (v : Byte) : Byte := b2bcd v

/-- The value of a date register's byte (R161): all eight bits take part. -/
def decDateField (b : Byte) : Byte := bcd2b b

/-- The code of a format (R98). -/
def formatCode : Format → BitVec 2
  | .h24 => 0b00#2
  | .h12am => 0b10#2
  | .h12pm => 0b11#2

/-- The format of a code (R98); `none` for the reserved code 0b01. -/
def formatOfCode (c : BitVec 2) : Option Format :=
  match c.toNat with
  | 0 => some .h24
  | 2 => some .h12am
  | 3 => some .h12pm
  | _ => none

/-- The square-wave mode of a select value (R99); `none` for the reserved values 6 to 255. All eight bits are compared. -/
def modeOfSelect (sel : Byte) : Option SqwMode :=
  match sel.toNat with
  | 0 => some .low
  | 1 => some .hz1
  | 2 => some .hz4096
  | 3 => some .hz8192
  | 4 => some .hz32768
  | 5 => some .high
  | _ => none

/-- `sqw_byte` (R170, R171): the whole control register. -/
def sqwByte : SqwMode → Byte
  | .low => 0x00#8
  | .hz1 => 0x10#8
  | .hz4096 => 0x11#8
  | .hz8192 => 0x12#8
  | .hz32768 => 0x13#8
  | .high => 0x80#8

end Sys2Proof.Machine
end

