-- ==== Sys2Proof/Syntax.lean ====
section
/-! DEFINITION. The instructions: the eight operations of the block (R3, R95), one constructor per row of the opcode
table, each with the request fields its view reads (R93). -/

namespace Sys2Proof

/-- One operation of the block with its operands. Fields an operation does not read are no operands (R97, R100). -/
inductive Instr where
  /-- `B2BCD v` (R134): `d[0]` = v. -/
  | b2bcd (v : Byte)
  /-- `BCD2B b` (R135): `d[0]` = b. -/
  | bcd2b (b : Byte)
  /-- `ENCT sec, min, hr, FMT` (R150): `d[0]`, `d[1]`, `d[2]` and the format code, reserved or not. -/
  | enct (seconds minutes hours : Byte) (fmt : BitVec 2)
  /-- `DECT b0, b1, b2` (R151): the bytes of registers 0x00, 0x01, 0x02. -/
  | dect (b0 b1 b2 : Byte)
  /-- `ENCD day, date, month, year` (R162): `d[0]` to `d[3]`. -/
  | encd (day date month year : Byte)
  /-- `DECD b0, b1, b2, b3` (R163): the bytes of registers 0x03 to 0x06. -/
  | decd (b0 b1 b2 b3 : Byte)
  /-- `ENCSQW MODE` (R172): `d[0]` = mode select value, reserved or not. -/
  | encsqw (mode : Byte)
  /-- `CHKHALT b0` (R174): the byte of register 0x00. -/
  | chkhalt (b : Byte)
  deriving DecidableEq, Repr, Inhabited

end Sys2Proof
end

