-- ==== Sys2Proof/WellFormed.lean ====
section
/-! DEFINITION. Which requests of a legal operation code are legal: items 2 and 3 of rule R101. (Item 1, a reserved
operation code, is no instruction: the decoder rejects it.) An ill-formed instruction still has a meaning: the block
answers it with the illegal response. -/

namespace Sys2Proof

/-- Rule R98: three of the four format codes are variants. -/
def Instr.formatOk (fmt : BitVec 2) : Bool := fmt != 0b01#2

/-- Rule R99: mode select values 0 to 5. -/
def Instr.modeOk (mode : Byte) : Bool := decide (mode.toNat ≤ 5)

/-- Rule R101, items 2 and 3: numeric operands are never checked (R230). -/
def Instr.wellFormed : Instr → Bool
  | .b2bcd _ => true
  | .bcd2b _ => true
  | .enct _ _ _ fmt => Instr.formatOk fmt
  | .dect _ _ _ => true
  | .encd _ _ _ _ => true
  | .decd _ _ _ _ => true
  | .encsqw mode => Instr.modeOk mode
  | .chkhalt _ => true

end Sys2Proof
end

