-- ==== Sys2Proof/Decode.lean ====
section
/-! DEFINITION. Packing of the request word (R90), the decoder (total on all 2^38 words, rejecting reserved operation codes
by name, R96) and, after it, the encoder (R95, R107). -/

namespace Sys2Proof

/-- Operation codes of rule R95. -/
def opB2bcd : BitVec 4 := 0b0000#4
def opBcd2b : BitVec 4 := 0b0001#4
def opEnct : BitVec 4 := 0b0010#4
def opDect : BitVec 4 := 0b0011#4
def opEncd : BitVec 4 := 0b0100#4
def opDecd : BitVec 4 := 0b0101#4
def opEncsqw : BitVec 4 := 0b0110#4
def opChkhalt : BitVec 4 := 0b0111#4

/-- `REQ = {op, fmt, d[3], d[2], d[1], d[0]}` (R90). -/
def Request.word (r : Request) : ReqWord := r.op ++ r.fmt ++ r.d3 ++ r.d2 ++ r.d1 ++ r.d0

/-- The six fields of a request word (R90). -/
def Request.ofWord (w : ReqWord) : Request :=
  { op  := w.extractLsb' 34 4
    fmt := w.extractLsb' 32 2
    d3  := w.extractLsb' 24 8
    d2  := w.extractLsb' 16 8
    d1  := w.extractLsb' 8 8
    d0  := w.extractLsb' 0 8 }

/-- Why the decoder rejects a request. -/
inductive DecodeError where
  /-- The operation code is one of 8 to 15, which select no operation (R96). -/
  | reservedOp (op : BitVec 4)
  deriving DecidableEq, Repr

/-- What the decoder answers. -/
inductive Decoded where
  | instr (i : Instr)
  | rejected (e : DecodeError)
  deriving DecidableEq, Repr

/-- Decoding of the fields (R92, R93, R95): `op` first (R235); fields outside the operation's view are ignored (R100). -/
def decodeRequest (r : Request) : Decoded :=
  match r.op.toNat with
  | 0 => .instr (.b2bcd r.d0)
  | 1 => .instr (.bcd2b r.d0)
  | 2 => .instr (.enct r.d0 r.d1 r.d2 r.fmt)
  | 3 => .instr (.dect r.d0 r.d1 r.d2)
  | 4 => .instr (.encd r.d0 r.d1 r.d2 r.d3)
  | 5 => .instr (.decd r.d0 r.d1 r.d2 r.d3)
  | 6 => .instr (.encsqw r.d0)
  | 7 => .instr (.chkhalt r.d0)
  | _ => .rejected (.reservedOp r.op)

/-- The decoder, on a request word. -/
def decode (w : ReqWord) : Decoded := decodeRequest (Request.ofWord w)

/-- The request of an instruction; fields its view does not read are 0 (R107). -/
def encodeRequest : Instr → Request
  | .b2bcd v => { op := opB2bcd, fmt := 0, d0 := v, d1 := 0, d2 := 0, d3 := 0 }
  | .bcd2b b => { op := opBcd2b, fmt := 0, d0 := b, d1 := 0, d2 := 0, d3 := 0 }
  | .enct sec min hr fmt => { op := opEnct, fmt := fmt, d0 := sec, d1 := min, d2 := hr, d3 := 0 }
  | .dect b0 b1 b2 => { op := opDect, fmt := 0, d0 := b0, d1 := b1, d2 := b2, d3 := 0 }
  | .encd day date month year => { op := opEncd, fmt := 0, d0 := day, d1 := date, d2 := month, d3 := year }
  | .decd b0 b1 b2 b3 => { op := opDecd, fmt := 0, d0 := b0, d1 := b1, d2 := b2, d3 := b3 }
  | .encsqw mode => { op := opEncsqw, fmt := 0, d0 := mode, d1 := 0, d2 := 0, d3 := 0 }
  | .chkhalt b => { op := opChkhalt, fmt := 0, d0 := b, d1 := 0, d2 := 0, d3 := 0 }

/-- The encoder: the request word of an instruction. -/
def encode (i : Instr) : ReqWord := (encodeRequest i).word

/-- The request word that a table row's number stands for. The table numbers `REQ`'s own bits (R109), so bit 0 is bit 0 of
`REQ`; a request has 38 wires, and a number's bits above 37 (the padding of a row to whole bytes) reach none (log 17). -/
def tableWord (w : Nat) : ReqWord := BitVec.ofNat 38 w

/-- The instruction the decoder reads from a table row's word. -/
def decodeTableWord (_nbits w : Nat) : Option Instr :=
  match decode (tableWord w) with
  | .instr i => some i
  | .rejected _ => none

end Sys2Proof
end

