-- ==== Sys2Proof/Config.lean ====
section
/-! DEFINITION. What the spec leaves open: the open parameters, and the environment's events with the free values they
carry, and what the device holds at power-on. -/

namespace Sys2Proof

/-- The open parameters of rule R10 that the host and the device model read. They stand in State, and no step changes
them. -/
structure Params where
  /-- `TRANSPORT_FALLIBLE` (R231, D18): each call reports success or error, and a host sequence stops at the first error. -/
  transportFallible : Bool
  /-- `RAM_FIRST` (D22): first address of the general-purpose registers. -/
  ramFirst : Byte
  /-- `RAM_LAST` (D22): last address of the general-purpose registers. -/
  ramLast : Byte
  deriving DecidableEq, Repr, Inhabited

/-- What the spec says of the bounds: `0x07 < RAM_FIRST <= 0x20 <= RAM_LAST` (D22). -/
def Params.wf (p : Params) : Bool :=
  decide (0x07 < p.ramFirst.toNat ∧ p.ramFirst.toNat ≤ 0x20 ∧ 0x20 ≤ p.ramLast.toNat)

/-- How one transport call ends. -/
inductive CallOutcome where
  /-- The call runs to completion. -/
  | returns
  /-- The call fails synchronously (R191, R231). -/
  | fails
  /-- The call never returns (U16). -/
  | hangs
  deriving DecidableEq, Repr, Inhabited

/-- One event of the environment: one is used up by every transport call, and one more by every byte a `receive`
delivers. It is a free value in every field: statements hold for every event. -/
structure EnvEvent where
  /-- What the device's own time-keeping does to its registers just before (R278: a running clock changes 0x00 to 0x06
  on its own); entries at other addresses are without effect. -/
  before : List Host.Cell
  /-- The same just after the call, so that a run's last write need not stand at its end (R278); not read in an event used
  for a byte. -/
  after : List Host.Cell
  /-- What the call does to the device's registers where the spec gives no outcome (U5, U6): any bytes at any addresses of
  the 8-bit register space. -/
  contents : List Host.Cell
  /-- How the call ends; not read in an event used for a byte. -/
  outcome : CallOutcome
  /-- The value of whatever the spec leaves unspecified at this point: a byte received, or the register pointer. -/
  byte : Byte
  deriving DecidableEq, Repr, Inhabited

/-- The device changes nothing on its own around the call. -/
abbrev EnvEvent.Still (e : EnvEvent) : Prop := e.before = [] ∧ e.after = []

/-- What each device register holds at power-on: one free launch input, one byte for each address (R45, R261), without a
body (log 4). -/
opaque Config.powerOn : Nat → Byte

/-- The events that happen once the script in `State.env` is used up: free values, without a body (log 8). -/
opaque Config.freeEvent : Nat → EnvEvent

end Sys2Proof
end

