-- ==== Sys2Proof/Machine/State.lean ====
section
/-! DEFINITION. The state of the machine: the block's wires as presented and sampled, the host with its program, the device
with its registers and register pointer, and the environment's events. The block itself stores nothing (R20). -/

namespace Sys2Proof.Machine

/-- The block's outputs (R26), as the record of the fields of `RSP` (R91). -/
structure Response where
  illegal : Bool
  halted  : Bool
  wrReq   : Bool
  fmtO    : BitVec 2
  nbytes  : BitVec 3
  regAddr : Byte
  q0      : Byte
  q1      : Byte
  q2      : Byte
  q3      : Byte
  deriving DecidableEq, Repr, Inhabited

/-- Device register contents: (address, byte) pairs, addresses strictly rising and below 256. An address that is not listed
holds its power-on content, the free value `Config.powerOn` (R45, log 4): `Memory.byte`. -/
abbrev Memory := List Host.Cell

/-- The device at bus address 0x68 (R28 to R42): its registers and its register pointer (R29). -/
structure Device where
  regs : Memory
  ptr  : Byte
  deriving DecidableEq, Repr, Inhabited

/-- One transport call as the host makes it (R190): the device address and the buffer sent, or the number of bytes asked
for and the bytes that came back. -/
inductive Call where
  | send (dev : Byte) (buf : List Byte)
  | receive (dev : Byte) (n : Nat) (got : List Byte)
  deriving DecidableEq, Repr

/-- One entry of a host program: a bare request of the block (R278), or one of the eight driver operations (R108). -/
inductive HostOp where
  | request (r : Request)
  /-- `INIT`, R195. -/
  | init
  /-- `SET_TIME`, R196. -/
  | setTime (t : TimeValue)
  /-- `GET_TIME`, R197. -/
  | getTime
  /-- `SET_DATE`, R198. -/
  | setDate (d : DateValue)
  /-- `GET_DATE`, R199. -/
  | getDate
  /-- `SET_SQW`, R200, with the mode select value of R99, reserved or not (R233). -/
  | setSquareWave (mode : Byte)
  /-- `RAM_READ`, R201. -/
  | ramRead (address : Byte) (length : Nat)
  /-- `RAM_WRITE`, R202. -/
  | ramWrite (address : Byte) (bytes : List Byte)
  deriving DecidableEq, Repr

/-- One action of the host inside a sequence. -/
inductive HostAct where
  /-- `send` of the one register-address byte (R193, R201, R202). -/
  | pointer (address : Byte)
  /-- `send` of a payload alone, with no address byte in front: `RAM_WRITE`'s second call (R202). -/
  | payload (bytes : List Byte)
  /-- `receive` of `n` bytes: of a register read (R193), or raw, of `ram_read` (R201). -/
  | receive (raw : Bool) (n : Nat)
  /-- Put a request on the block's inputs. -/
  | present (r : Request)
  /-- Put a request on the block's inputs whose lanes are the bytes just received (R195, R197, R199). -/
  | presentReceived (op : BitVec 4)
  /-- `MemWrite` of the response's image: address `reg_addr`, payload `q[0] .. q[nbytes-1]` (R104, R192). -/
  | writeImage
  /-- The same if `wr_req` = 1, else nothing (R195). -/
  | writeImageIfRequested
  /-- The sequence ends and returns the whole response (R278). -/
  | giveResponse
  /-- The sequence ends and returns `halted` (R195). -/
  | giveHalted
  /-- The sequence ends and returns a time value (R197). -/
  | giveTime
  /-- The sequence ends and returns a date value (R199). -/
  | giveDate
  /-- The sequence ends and returns the received bytes raw (R201). -/
  | giveBytes
  /-- The sequence ends and returns nothing (R196, R198, R200, R202). -/
  | giveNothing
  deriving DecidableEq, Repr

/-- How a host sequence ended. -/
inductive HostResult where
  | response (r : Response)
  | halted (b : Bool)
  | time (t : TimeValue)
  | date (d : DateValue)
  | bytes (bs : List Byte)
  | nothing
  /-- The block answered `illegal`, and the sequence stopped without a transport call for that request (R233). -/
  | illegalRequest
  /-- With `TRANSPORT_FALLIBLE`, a transport call failed and the sequence stopped there (R231). -/
  | transportError
  deriving DecidableEq, Repr

/-- Which agent moves next (log 18). -/
inductive Agent where
  | block
  | host
  deriving DecidableEq, Repr, Inhabited

/-- The state. `INVENTORY.md` lists each field with its rule and its reset value. -/
structure State where
  /-- The open parameters (R10); no step changes them. -/
  params    : Params
  /-- The request on the block's input wires (R25, R90). -/
  req       : Request
  /-- The response as last sampled from the block's output wires (R26, R91). -/
  rsp       : Response
  /-- Whose move is next. -/
  turn      : Agent
  /-- Whether the transport capabilities have been supplied (R43, R263). -/
  transport : Bool
  /-- The host sequences not yet begun, in program order (R278). -/
  program   : List HostOp
  /-- What is left to do of the sequence in progress. -/
  todo      : List HostAct
  /-- The receive buffer of the sequence in progress. -/
  received  : List Byte
  /-- What the sequences returned, oldest first (R278). -/
  returned  : List HostResult
  /-- The transport calls made, oldest first (R278). -/
  calls     : List Call
  /-- The device (R28 to R42). -/
  dev       : Device
  /-- Environment events still to happen: the model's own field (log 8). -/
  env       : List EnvEvent
  /-- Counter of the free events drawn after `env` is used up: the model's own field (log 8). -/
  freeIdx   : Nat
  deriving DecidableEq, Repr

/-- Why the machine stops. No operation of the block raises one (R230, R236); both are raised by a host's transport call. -/
inductive Fault where
  /-- A transport call before the transport capabilities were supplied: it "has no meaning in the source" (R263). Raised by
  the host's send and receive. Safe: the model stops where the spec gives no meaning. -/
  | noTransport
  /-- A transport call never returns: the stuck state of U16 (`93_implementation_defined.md`). Raised by the host's send and
  receive when the environment's event says so. Safe: the spec assumes that it does not happen (R277), so the model allows
  more than the spec. -/
  | transportHang
  deriving DecidableEq, Repr

/-- Why an instruction has no meaning. -/
inductive Refusal where
  /-- An instruction whose meaning is not written yet. No arm raises it: every operation has its meaning. Safe. -/
  | notModelled (mnemonic : String)
  deriving DecidableEq, Repr

/-- Right after reset. The block has nothing to reset (R44, R260); no device register is listed, so each
holds its free power-on content (R45, log 4). The values the spec gives none for are named in logs 3, 5, 6, 7 and 8. -/
def State.reset : State :=
  { params    := { transportFallible := false, ramFirst := 0x20#8, ramLast := 0x20#8 }
    req       := { op := 0, fmt := 0, d0 := 0, d1 := 0, d2 := 0, d3 := 0 }
    rsp       := { illegal := false, halted := false, wrReq := false, fmtO := 0, nbytes := 0, regAddr := 0,
                   q0 := 0, q1 := 0, q2 := 0, q3 := 0 }
    turn      := .host
    transport := false
    program   := []
    todo      := []
    received  := []
    returned  := []
    calls     := []
    dev       := { regs := [], ptr := 0 }
    env       := []
    freeIdx   := 0 }

end Sys2Proof.Machine
end

