-- ==== Sys2Proof/Machine/Ops.lean ====
section
/-! DEFINITION. The named operations over the wires, the device's memory and the turn: answering a request, the one illegal
answer, packing of the response word, reading and writing one register byte, fetching the request. -/

namespace Sys2Proof.Machine

/-- `RSP = {illegal, halted, wr_req, fmt_o, nbytes, reg_addr, q[3], q[2], q[1], q[0]}` (R91). -/
def Response.word (r : Response) : RspWord :=
  BitVec.ofBool r.illegal ++ BitVec.ofBool r.halted ++ BitVec.ofBool r.wrReq ++ r.fmtO ++ r.nbytes ++ r.regAddr
    ++ r.q3 ++ r.q2 ++ r.q1 ++ r.q0

/-- Every field 0: what every response starts from (R92, R103). -/
def Response.zero : Response :=
  { illegal := false, halted := false, wrReq := false, fmtO := 0, nbytes := 0, regAddr := 0,
    q0 := 0, q1 := 0, q2 := 0, q3 := 0 }

/-- The illegal response (R102): `illegal` = 1 and every other field 0, whatever the cause (R232). -/
def Response.illegalAnswer : Response := { Response.zero with illegal := true }

/-- The payload of a response: `q[0] .. q[nbytes-1]` (R104). -/
def Response.payload (r : Response) : List Byte := [r.q0, r.q1, r.q2, r.q3].take r.nbytes.toNat

/-- The frame of a register write: `[reg_addr] ++ [q[0] .. q[nbytes-1]]` (R104, R192). -/
def Response.frame (r : Response) : List Byte := r.regAddr :: r.payload

/-- The block answers: the response appears on its output wires, and nothing else changes (R20, R60). -/
def State.respond (s : State) (r : Response) : State := { s with rsp := r }

/-- The block's one error indication (R232), taken from wherever a request turns out illegal. It is an ordinary response:
nothing is saved, no mode changes, control goes nowhere, and there is nothing to return from (R236, R237). -/
def State.answerIllegal (s : State) : State := s.respond Response.illegalAnswer

/-- A request the decoder rejects is answered like every illegal request (R96, R102). -/
def State.answerRejected (s : State) (_e : DecodeError) : State := s.answerIllegal

/-- The request word on the block's input wires (R90). -/
def State.fetch (s : State) : ReqWord := s.req.word

/-- A host with no sequence in progress and none to begin. -/
def State.idle (s : State) : Bool := s.todo.isEmpty && s.program.isEmpty

/-- Which agent moves (log 18): the block when a request was presented to it, and when the host is idle, since a
combinational block answers whatever stands on its inputs (R44, R260). -/
def State.mover (s : State) : Agent :=
  match s.turn with
  | .block => .block
  | .host => if s.idle then .block else .host

/-- The block's answer gives the move back to the host. -/
def State.handBack (s : State) : State := { s with turn := .host }

/-- A request put on the block's wires from outside (log 19). -/
def State.presentRequest (s : State) (r : Request) : State := { s with req := r, turn := .block }

/-- The content of a register, if it is listed. -/
def Memory.read : Memory → Nat → Option Byte
  | [], _ => none
  | (a, b) :: rest, k => if k = a then some b else Memory.read rest k

/-- THE byte a register holds: what was last written there, else its power-on content (R45, log 4). -/
def Memory.byte (m : Memory) (a : Nat) : Byte := (m.read a).getD (Config.powerOn a)

/-- One register byte written; the list stays sorted. -/
def Memory.write : Memory → Nat → Byte → Memory
  | [], k, v => [(k, v)]
  | (a, b) :: rest, k, v =>
    if k < a then (k, v) :: (a, b) :: rest
    else if k = a then (k, v) :: rest
    else (a, b) :: Memory.write rest k v

/-- Addresses strictly rising from `lo` on, and below 256 (R28). -/
def Memory.risingFrom : Nat → Memory → Bool
  | _, [] => true
  | lo, (a, _) :: rest => decide (lo ≤ a) && decide (a < 256) && Memory.risingFrom (a + 1) rest

/-- The canonical form. What an unlisted address reads as is a free value, so no listed byte is known to equal it (log 4). -/
def Memory.wf (m : Memory) : Bool := Memory.risingFrom 0 m

/-- Any bytes written, one after the other; addresses outside the 8-bit register space (R28) are without effect. -/
def Memory.load : Memory → List Host.Cell → Memory
  | m, [] => m
  | m, c :: cs => Memory.load (if c.1 < 256 then m.write c.1 c.2 else m) cs

/-- Payload bytes stored at consecutive ascending addresses (R62, R192). -/
def Memory.storeFrom (m : Memory) : Nat → List Byte → Memory
  | _, [] => m
  | a, v :: vs => Memory.storeFrom (m.write a v) (a + 1) vs

end Sys2Proof.Machine
end

