-- ==== Sys2Proof/Machine/Bcd.lean ====
section
/-! DEFINITION. The BCD family (40_bcd.md): B2BCD and BCD2B. -/

namespace Sys2Proof.Machine

/-- The response of B2BCD (R134). -/
def answerB2bcd (v : Byte) : Response := { Response.zero with q0 := b2bcd v, regAddr := 0x00, nbytes := 0 }

/-- `B2BCD v` (R134). -/
def execB2bcd (v : Byte) (s : State) : Host.Outcome State Fault Refusal := .next (s.respond (answerB2bcd v))

/-- The response of BCD2B (R135). -/
def answerBcd2b (b : Byte) : Response := { Response.zero with q0 := bcd2b b, regAddr := 0x00, nbytes := 0 }

/-- `BCD2B b` (R135). -/
def execBcd2b (b : Byte) (s : State) : Host.Outcome State Fault Refusal := .next (s.respond (answerBcd2b b))

end Sys2Proof.Machine
end

