-- ==== Sys2Proof/Machine/Flags.lean ====
section
/-! DEFINITION. The response's flags (R24): `halted` and `wr_req` of CHKHALT, `fmt_o` of DECT. None is stored or sticky;
`illegal` is set by the one shared operation `Response.illegalAnswer` of Machine/Ops.lean. -/

namespace Sys2Proof.Machine

/-- `ch_of` (R173). -/
def chOf (b : Byte) : Bool := chBit b

/-- `halted` of CHKHALT (R174). -/
def haltedFlag (b : Byte) : Bool := chOf b

/-- `wr_req` of CHKHALT (R174): a write is needed exactly when halted. -/
def wrReqFlag (b : Byte) : Bool := chOf b

/-- `fmt_o` of DECT (R151): the code of the decoded format. -/
def fmtOut (b : Byte) : BitVec 2 := formatCode (decHrFormat b)

end Sys2Proof.Machine
end

