-- ==== Sys2Proof/Machine/Control.lean ====
section
/-! DEFINITION. The control family (43_control.md): ENCSQW and CHKHALT. -/

namespace Sys2Proof.Machine

/-- The response of ENCSQW (R172): illegal for a reserved select value, else the image of register 0x07. -/
def answerEncsqw (sel : Byte) : Response :=
  match modeOfSelect sel with
  | none => Response.illegalAnswer
  | some m => { Response.zero with q0 := sqwByte m, regAddr := 0x07, nbytes := 1 }

/-- `ENCSQW MODE` (R172). -/
def execEncsqw (sel : Byte) (s : State) : Host.Outcome State Fault Refusal := .next (s.respond (answerEncsqw sel))

/-- The response of CHKHALT (R174): the byte to write is 0x00 whatever the seconds digits are. -/
def answerChkhalt (b : Byte) : Response :=
  { Response.zero with halted := haltedFlag b, wrReq := wrReqFlag b, q0 := 0x00, regAddr := 0x00, nbytes := 1 }

/-- `CHKHALT b0` (R174). -/
def execChkhalt (b : Byte) (s : State) : Host.Outcome State Fault Refusal := .next (s.respond (answerChkhalt b))

end Sys2Proof.Machine
end

