-- ==== Sys2Proof/Machine/Date.lean ====
section
/-! DEFINITION. The date family (42_date.md): ENCD and DECD. -/

namespace Sys2Proof.Machine

/-- The response of ENCD (R162): the images of registers 0x03 to 0x06. -/
def answerEncd (day date month year : Byte) : Response :=
  { Response.zero with
    q0 := encDateField day, q1 := encDateField date, q2 := encDateField month, q3 := encDateField year
    regAddr := 0x03, nbytes := 4 }

/-- `ENCD day, date, month, year` (R162). -/
def execEncd (day date month year : Byte) (s : State) : Host.Outcome State Fault Refusal :=
  .next (s.respond (answerEncd day date month year))

/-- The response of DECD (R163). -/
def answerDecd (b0 b1 b2 b3 : Byte) : Response :=
  { Response.zero with
    q0 := decDateField b0, q1 := decDateField b1, q2 := decDateField b2, q3 := decDateField b3
    regAddr := 0x03, nbytes := 4 }

/-- `DECD b0, b1, b2, b3` (R163). -/
def execDecd (b0 b1 b2 b3 : Byte) (s : State) : Host.Outcome State Fault Refusal :=
  .next (s.respond (answerDecd b0 b1 b2 b3))

end Sys2Proof.Machine
end

