-- ==== Sys2Proof/Machine/Time.lean ====
section
/-! DEFINITION. The time family (41_time.md): ENCT and DECT. -/

namespace Sys2Proof.Machine

/-- The response of ENCT (R150): illegal for the reserved format code, else the images of registers 0x00 to 0x02. `fmt_o` is
0, not a copy of `fmt`. -/
def answerEnct (sec min hr : Byte) (fmt : BitVec 2) : Response :=
  match formatOfCode fmt with
  | none => Response.illegalAnswer
  | some f => { Response.zero with q0 := encSec sec, q1 := encMin min, q2 := encHr hr f, regAddr := 0x00, nbytes := 3 }

/-- `ENCT sec, min, hr, FMT` (R150). -/
def execEnct (sec min hr : Byte) (fmt : BitVec 2) (s : State) : Host.Outcome State Fault Refusal :=
  .next (s.respond (answerEnct sec min hr fmt))

/-- The response of DECT (R151). `halted` stays 0 whatever bit 7 of `d[0]` is. -/
def answerDect (b0 b1 b2 : Byte) : Response :=
  { Response.zero with
    q0 := decSec b0, q1 := decMin b1, q2 := decHrHours b2, fmtO := fmtOut b2, regAddr := 0x00, nbytes := 3 }

/-- `DECT b0, b1, b2` (R151). -/
def execDect (b0 b1 b2 : Byte) (s : State) : Host.Outcome State Fault Refusal := .next (s.respond (answerDect b0 b1 b2))

end Sys2Proof.Machine
end

