-- ==== Sys2Proof/Machine/Dispatch.lean ====
section
/-! DEFINITION. One arm per operation of the block (R92, R95). -/

namespace Sys2Proof.Machine

-- Each arm is one direct call of the operation's meaning.
def exec (i : Instr) (s : State) : Host.Outcome State Fault Refusal :=
  match i with
  | .b2bcd v => Sys2Proof.Machine.execB2bcd v s
  | .bcd2b b => Sys2Proof.Machine.execBcd2b b s
  | .enct seconds minutes hours fmt => Sys2Proof.Machine.execEnct seconds minutes hours fmt s
  | .dect b0 b1 b2 => Sys2Proof.Machine.execDect b0 b1 b2 s
  | .encd day date month year => Sys2Proof.Machine.execEncd day date month year s
  | .decd b0 b1 b2 b3 => Sys2Proof.Machine.execDecd b0 b1 b2 b3 s
  | .encsqw mode => Sys2Proof.Machine.execEncsqw mode s
  | .chkhalt b => Sys2Proof.Machine.execChkhalt b s

end Sys2Proof.Machine
end

