-- ==== Sys2Proof/Machine/Device.lean ====
section
/-! DEFINITION. The device as the driver sees it (10_state.md part 4, 20_memory.md): registers behind a register pointer.
Where the source gives no behaviour, the result is a free value of the environment's event. -/

namespace Sys2Proof

/-- An address inside the general-purpose block (R39, R68). -/
def Params.inRam (p : Params) (a : Nat) : Bool := decide (p.ramFirst.toNat ≤ a ∧ a ≤ p.ramLast.toNat)

/-- `a` and `b` are both among the eight registers, or both in the general-purpose block: a transfer from one to the other
goes through consecutive registers (R62, R193). Nothing is given past an edge (R42, N11; log 12). -/
def Params.sameRegion (p : Params) (a b : Nat) : Bool :=
  (Machine.isRegister a && Machine.isRegister b) || (p.inRam a && p.inRam b)

/-- Whether a transfer that began at `start` goes through consecutive registers whose contents are given up to `a`. A `ram_read`
(`raw`) has them inside the general-purpose block only: at any other address its bytes are any value (U7), and no sequence reads
the control register back (R264) or shows the clock-halt bit beside `init` (R272). -/
def Params.reaches (p : Params) (raw : Bool) (start a : Nat) : Bool :=
  if raw then p.inRam start && p.inRam a else p.sameRegion start a

end Sys2Proof

namespace Sys2Proof.Machine

/-- The device's own time-keeping: any change of the time and date registers, and of nothing else (R278; log 9). -/
def Memory.tick (m : Memory) (changes : List Host.Cell) : Memory := m.load (changes.filter fun c => isTimeRegister c.1)

/-- Time passes at the device. -/
def Device.tick (d : Device) (changes : List Host.Cell) : Device := { d with regs := d.regs.tick changes }

/-- Any device state (U5, U6): any change of any register, and the pointer is a free value (log 10). -/
def Device.unspecified (e : EnvEvent) (d : Device) : Device := { regs := d.regs.load e.contents, ptr := e.byte }

/-- The register pointer after `n` bytes were transferred from `start` on: advanced by `n` while that stays among
consecutive registers that the transfer reaches, else a free value (R42, U14). DESIGN CHOICE: that it stays there, so that a
`receive` without a pointer `send` before it goes on where the last transfer stopped, is the model's (N11; log 24), and so is
that a transfer of no bytes leaves it where it was, where the read reaches its address (N13; log 25). -/
def pointerAfter (p : Params) (e : EnvEvent) (raw : Bool) (start n : Nat) : Byte :=
  if p.reaches raw start (start + n) then BitVec.ofNat 8 (start + n) else e.byte

/-- What byte a read at `a` returns in a transfer that began at `start`: the register's content where the transfer reaches it, a
free value anywhere else (R193, U7, U14; log 26). -/
def Device.content (p : Params) (e : EnvEvent) (d : Device) (raw : Bool) (start a : Nat) : Byte :=
  if p.reaches raw start a then d.regs.byte a else e.byte

/-- A frame arrives whole. Its first byte sets the register pointer (R29); payload byte `i` is stored at `addr + i` (R62,
R192). An empty frame, or a payload that leaves the described registers, has no described effect (N11, N13). -/
def Device.takeFrame (p : Params) (e : EnvEvent) (d : Device) : List Byte → Device
  | [] => d.unspecified e
  | a :: [] => { d with ptr := a }
  | a :: v :: vs =>
    if p.sameRegion a.toNat (a.toNat + vs.length) then
      { regs := d.regs.storeFrom a.toNat (v :: vs), ptr := pointerAfter p e false a.toNat (vs.length + 1) }
    else d.unspecified e

/-- What one `send` does to the device. For a payload sent alone (`RAM_WRITE`'s second call) no resulting contents are given
(U6), but a failure writes no data and leaves the pointer set (R202; log 10). For a frame that failed, whether it arrived is not
given (U5; log 10). -/
def Device.afterSend (p : Params) (e : EnvEvent) (payloadAlone : Bool) (buf : List Byte) (d : Device) : Device :=
  match e.outcome, payloadAlone with
  | .returns, false => d.takeFrame p e buf
  | .returns, true => d.unspecified e
  | .fails, false => d.unspecified e
  | .fails, true => d
  | .hangs, _ => d

/-- Whether the oscillator is stopped: `CH`, bit 7 of the seconds register (R31, R245; log 23). -/
def Device.oscillatorStopped (d : Device) : Bool := chBit (d.regs.byte regSec.toNat)

/-- The mode a control byte sets the square-wave pin to: the six values of R38, nothing being given of the other 250. -/
def modeOfControlByte (b : Byte) : Option SqwMode :=
  match b.toNat with
  | 0x00 => some .low
  | 0x10 => some .hz1
  | 0x11 => some .hz4096
  | 0x12 => some .hz8192
  | 0x13 => some .hz32768
  | 0x80 => some .high
  | _ => none

/-- What the square-wave pin is set to, where the spec says it of the control register's byte (R38, R67; log 23). -/
def Device.squareWavePin (d : Device) : Option SqwMode := modeOfControlByte (d.regs.byte regCtrl.toNat)

end Sys2Proof.Machine
end

