-- ==== Sys2Proof/Machine/Transport.lean ====
section
/-! DEFINITION. The two transport capabilities (R190) as the host's calls: each uses up an event of the environment, is
recorded, and ends as the event says (R191, R231). -/

namespace Sys2Proof.Machine

/-- The next event of the environment: from the script, or a free value after it (log 8). -/
def State.event (s : State) : EnvEvent :=
  match s.env with
  | e :: _ => e
  | [] => Config.freeEvent s.freeIdx

/-- The event is used up. -/
def State.dropEvent (s : State) : State :=
  match s.env with
  | _ :: rest => { s with env := rest }
  | [] => { s with freeIdx := s.freeIdx + 1 }

/-- A host sequence ends: it returns a value, and the next one may begin. -/
def State.endSequence (s : State) (r : HostResult) : State := { s with todo := [], returned := s.returned ++ [r] }

/-- The host after a call that returned or failed: the outcome is unobserved (R191), unless `TRANSPORT_FALLIBLE` is true and
the call failed; then the sequence stops with the error (R231). -/
def State.afterCall (s : State) (o : CallOutcome) : State :=
  if o = .fails ∧ s.params.transportFallible = true then s.endSequence .transportError else s

/-- The state a `send` that ends leads to. -/
def State.sent (s : State) (payloadAlone : Bool) (buf : List Byte) : State :=
  { s.dropEvent with
    dev := ((s.dev.tick s.event.before).afterSend s.params s.event payloadAlone buf).tick s.event.after
    calls := s.calls ++ [.send devAddr buf] }

/-- `send(DEV_ADDR, buf)` (R190). -/
def State.send (s : State) (payloadAlone : Bool) (buf : List Byte) : Host.Outcome State Fault Refusal :=
  if s.transport then
    match s.event.outcome with
    | .hangs => .fault .transportHang
    | o => .next ((s.sent payloadAlone buf).afterCall o)
  else .fault .noTransport

/-- The bytes of a `receive` that began at register `start`, from byte `i` on, one event of the environment each: the clock
may change the registers between two bytes (U13; log 11). After a failure every byte is a free value (U5). -/
def State.takeBytes (raw ok : Bool) (start : Nat) : Nat → Nat → State → List Byte × State
  | 0, _, s => ([], s)
  | n + 1, i, s =>
    let d := s.dev.tick s.event.before
    let b := if ok then d.content s.params s.event raw start (start + i) else s.event.byte
    let r := State.takeBytes raw ok start n (i + 1) { s.dropEvent with dev := d }
    (b :: r.1, r.2)

/-- The state a `receive` that ends leads to: the bytes are in the buffer and the pointer has moved on (R42). DESIGN CHOICE: a
`receive` begins wherever the pointer stands, a pointer `send` before it or not (N11; log 24), and one of no bytes is made,
returns no bytes, leaves the registers alone, and the pointer where the read reaches its address (N13; log 25). -/
def State.gotBytes (s : State) (raw : Bool) (n : Nat) (ok : Bool) : State :=
  let start := s.dev.ptr.toNat
  let r := State.takeBytes raw ok start n 0 { s.dropEvent with dev := s.dev.tick s.event.before }
  { r.2 with
    received := r.1
    calls := s.calls ++ [.receive devAddr n r.1]
    dev := { r.2.dev.tick s.event.after with ptr := if ok then pointerAfter s.params s.event raw start n else s.event.byte } }

/-- `receive(DEV_ADDR, n)` (R190); the call is one and the same, `raw` only says which bytes of it the spec gives (U7). -/
def State.receive (s : State) (raw : Bool) (n : Nat) : Host.Outcome State Fault Refusal :=
  if s.transport then
    match s.event.outcome with
    | .hangs => .fault .transportHang
    | .returns => .next ((s.gotBytes raw n true).afterCall .returns)
    | .fails => .next ((s.gotBytes raw n false).afterCall .fails)
  else .fault .noTransport

end Sys2Proof.Machine
end

