-- ==== Sys2Proof/Machine/Driver.lean ====
section
/-! DEFINITION. The host: the expansions of the driver's operations (R108, R195 to R202) into actions, and what one action
does. Nothing here is behaviour of the block (R7). -/

namespace Sys2Proof.Machine

/-- A macro's expansion (R108). -/
def HostOp.expand : HostOp → List HostAct
  | .request r => [.present r, .giveResponse]
  | .init => [.pointer regSec, .receive false 1, .presentReceived opChkhalt, .writeImageIfRequested, .giveHalted]
  | .setTime t => [.present (encodeRequest (.enct t.seconds t.minutes t.hours t.format)), .writeImage, .giveNothing]
  | .getTime => [.pointer regSec, .receive false 3, .presentReceived opDect, .giveTime]
  | .setDate d => [.present (encodeRequest (.encd d.day d.date d.month d.year)), .writeImage, .giveNothing]
  | .getDate => [.pointer regDay, .receive false 4, .presentReceived opDecd, .giveDate]
  | .setSquareWave mode => [.present (encodeRequest (.encsqw mode)), .writeImage, .giveNothing]
  | .ramRead address length => [.pointer address, .receive true length, .giveBytes]
  | .ramWrite address bytes => [.pointer address, .payload bytes, .giveNothing]

/-- Received bytes on the request's lanes: byte `i` in lane `i` (R62); lanes without a byte are 0 (R107). -/
def Request.ofBytes (op : BitVec 4) (bs : List Byte) : Request :=
  { op := op, fmt := 0, d0 := bs.getD 0 0, d1 := bs.getD 1 0, d2 := bs.getD 2 0, d3 := bs.getD 3 0 }

/-- `MemWrite` of the response's image (R192): the frame in one `send`. On an illegal response the sequence stops, with no
transport call (R233). -/
def State.writeImage (s : State) : Host.Outcome State Fault Refusal :=
  if s.rsp.illegal then .next (s.endSequence .illegalRequest) else s.send false s.rsp.frame

/-- `init`'s conditional write (R195, R203). -/
def State.writeImageIfRequested (s : State) : Host.Outcome State Fault Refusal :=
  if s.rsp.illegal then .next (s.endSequence .illegalRequest)
  else if s.rsp.wrReq then s.send false s.rsp.frame
  else .next s

/-- The time value a DECT response carries (R197). -/
def Response.time (r : Response) : TimeValue := { seconds := r.q0, minutes := r.q1, hours := r.q2, format := r.fmtO }

/-- The date value a DECD response carries (R199). -/
def Response.date (r : Response) : DateValue := { day := r.q0, date := r.q1, month := r.q2, year := r.q3 }

/-- One action of the host, in a state whose `todo` it was taken from. -/
def HostAct.run (s : State) : HostAct → Host.Outcome State Fault Refusal
  | .pointer address => s.send false [address]
  | .payload bytes => s.send true bytes
  | .receive raw n => s.receive raw n
  | .present r => .next (s.presentRequest r)
  | .presentReceived op => .next (s.presentRequest (Request.ofBytes op s.received))
  | .writeImage => s.writeImage
  | .writeImageIfRequested => s.writeImageIfRequested
  | .giveResponse => .next (s.endSequence (.response s.rsp))
  | .giveHalted => .next (s.endSequence (.halted s.rsp.halted))
  | .giveTime => .next (s.endSequence (.time s.rsp.time))
  | .giveDate => .next (s.endSequence (.date s.rsp.date))
  | .giveBytes => .next (s.endSequence (.bytes s.received))
  | .giveNothing => .next (s.endSequence .nothing)

/-- The host begins a sequence of its program. -/
def State.begin (s : State) (op : HostOp) (rest : List HostOp) : State :=
  { s with program := rest, todo := op.expand, received := [] }

/-- The host's move: the next action of the sequence in progress, else the next sequence of the program, in program order
(R72). -/
def State.hostMove (s : State) : Host.Outcome State Fault Refusal :=
  match s.todo with
  | a :: rest => a.run { s with todo := rest }
  | [] =>
    match s.program with
    | op :: rest => .next (s.begin op rest)
    | [] => .next s

/-- What the outside gives a run: the device's initial contents and pointer, a free launch input (R45, R261), the transport
capabilities (R263), a program, and the environment's events (log 19). -/
def State.launch (s : State) (contents : List Host.Cell) (ptr : Byte) (program : List HostOp) (env : List EnvEvent) : State :=
  { s with dev := { regs := s.dev.regs.load contents, ptr := ptr }, transport := true, program := program, env := env }

end Sys2Proof.Machine
end

