-- ==== Sys2Proof/Machine/Step.lean ====
section
/-! DEFINITION. One step: one move of the block or of the host. -/

namespace Sys2Proof.Machine

/-- The block's move answers the request on its wires (R92); the host's move is one action of its sequence. -/
def step (s : State) : Host.Outcome State Fault Refusal :=
  match s.mover with
  | .block =>
    match decode s.fetch with
    | .instr i => exec i s.handBack
    | .rejected e => .next (s.handBack.answerRejected e)
  | .host => s.hostMove

/-- `s` with a table row's word on the block's input wires, and the block's move next (log 19). -/
def State.withFetchWord (s : State) (_nbits w : Nat) : State := s.presentRequest (Request.ofWord (tableWord w))

end Sys2Proof.Machine
end

