-- ==== Sys2Proof/Machine/Codec.lean ====
section
/-! DEFINITION. The block as the total function `exec : REQ -> RSP` of rule R92, on words, with no state at all (R20). That
the machine's step answers with it is a statement of its own. -/

namespace Sys2Proof.Machine

/-- The response to a legal operation code's request. -/
def answerOf : Instr → Response
  | .b2bcd v => answerB2bcd v
  | .bcd2b b => answerBcd2b b
  | .enct sec min hr fmt => answerEnct sec min hr fmt
  | .dect b0 b1 b2 => answerDect b0 b1 b2
  | .encd day date month year => answerEncd day date month year
  | .decd b0 b1 b2 b3 => answerDecd b0 b1 b2 b3
  | .encsqw mode => answerEncsqw mode
  | .chkhalt b => answerChkhalt b

/-- The response to a request word. -/
def codecResponse (w : ReqWord) : Response :=
  match decode w with
  | .instr i => answerOf i
  | .rejected _ => Response.illegalAnswer

/-- `exec : REQ -> RSP` (R92). -/
def codec (w : ReqWord) : RspWord := (codecResponse w).word

end Sys2Proof.Machine
end

