-- ==== Sys2Proof/Safety.lean ====
section
/-! DEFINITION. The terms claims are stated in: runs, the invariant, quiet environments, safe runs, and which host
operations are legal. -/

namespace Sys2Proof.Machine

/-- `n` steps of the machine. -/
def run (n : Nat) (s : State) : Host.Outcome State Fault Refusal := Host.Core.run Sys2Proof.core n s

/-- A response the block can give. -/
def Response.isAnswer (r : Response) : Prop := ∃ w : ReqWord, r = codecResponse w

/-- The device address a call was made to. -/
def Call.device : Call → Byte
  | .send dev _ => dev
  | .receive dev _ _ => dev

/-- What holds in every state a run reaches: the device's memory is in canonical form, the open parameters are within the
bounds the spec gives (D22), the sampled response is one the block can give, and every transport call was made to
`DEV_ADDR` (R190). -/
structure State.Inv (s : State) : Prop where
  memory : s.dev.regs.wf = true
  params : s.params.wf = true
  answer : s.rsp.isAnswer
  calls  : ∀ c ∈ s.calls, c.device = devAddr

/-- The next `n` events are in the script, and in them every call returns (a claim that needs success takes this as its
premise, U5). -/
def State.Returning (s : State) (n : Nat) : Prop := n ≤ s.env.length ∧ ∀ e ∈ s.env.take n, e.outcome = .returns

/-- The next `n` events are in the script, and in them every call comes to an end, well or badly (R72, R277). -/
def State.Ending (s : State) (n : Nat) : Prop := n ≤ s.env.length ∧ ∀ e ∈ s.env.take n, e.outcome ≠ .hangs

/-- The next `n` events are in the script, in them every call returns, and the device changes nothing on its own. -/
def State.Quiet (s : State) (n : Nat) : Prop :=
  n ≤ s.env.length ∧ ∀ e ∈ s.env.take n, e.outcome = .returns ∧ e.Still

/-- The host stands before `op`: its move, nothing in progress, `op` next and `rest` after it, the transport supplied. -/
structure State.Before (s : State) (op : HostOp) (rest : List HostOp) : Prop where
  turn      : s.turn = .host
  todo      : s.todo = []
  program   : s.program = op :: rest
  transport : s.transport = true

/-- `n` steps with no fault and no illegal response on the way (R232: a claim about a host program takes "no response had
`illegal` = 1" as a premise or proves it). -/
def SafeRun : Nat → State → Prop
  | 0, s => s.rsp.illegal = false
  | n + 1, s => s.rsp.illegal = false ∧ ∃ t, step s = .next t ∧ SafeRun n t

/-- A host operation whose block requests are legal (R101). -/
def HostOp.legal : HostOp → Bool
  | .request r => !(codecResponse r.word).illegal
  | .setTime t => Instr.formatOk t.format
  | .setSquareWave mode => Instr.modeOk mode
  | .init | .getTime | .setDate _ | .getDate | .ramRead _ _ | .ramWrite _ _ => true

/-- The bits of `REQ` that an operation's view reads, the operation code among them (R93, R97). -/
def readMask : Instr → ReqWord
  | .b2bcd _ | .bcd2b _ | .encsqw _ | .chkhalt _ => 0x3C000000FF#38
  | .enct _ _ _ _ => 0x3F00FFFFFF#38
  | .dect _ _ _ => 0x3C00FFFFFF#38
  | .encd _ _ _ _ | .decd _ _ _ _ => 0x3CFFFFFFFF#38

/-- The buffer an action sends, if its call is a `send`: nothing is sent of an illegal response (R233), and `init`'s
conditional write sends only if `wr_req` = 1 (R195). -/
def HostAct.sends (rsp : Response) : HostAct → Option (List Byte)
  | .pointer address => some [address]
  | .payload bytes => some bytes
  | .writeImage => if rsp.illegal then none else some rsp.frame
  | .writeImageIfRequested => if rsp.illegal = false ∧ rsp.wrReq = true then some rsp.frame else none
  | .receive _ _ | .present _ | .presentReceived _ | .giveResponse | .giveHalted | .giveTime | .giveDate | .giveBytes
  | .giveNothing => none

/-- The most environment events a sequence uses up: one a transport call (R204), one a received byte. -/
def HostOp.events : HostOp → Nat
  | .request _ => 0
  | .init => 4
  | .setTime _ => 1
  | .getTime => 5
  | .setDate _ => 1
  | .getDate => 6
  | .setSquareWave _ => 1
  | .ramRead _ length => length + 2
  | .ramWrite _ _ => 2

/-- The steps of a sequence that is not cut short: its beginning, its actions, and the block's answers. -/
def HostOp.steps : HostOp → Nat
  | .request _ => 4
  | .init => 7
  | .setTime _ => 5
  | .getTime => 6
  | .setDate _ => 5
  | .getDate => 6
  | .setSquareWave _ => 5
  | .ramRead _ _ => 4
  | .ramWrite _ _ => 4

/-- The transport calls recorded since `s`. -/
def State.callsSince (s t : State) : List Call := t.calls.drop s.calls.length

/-- How many of some calls are sends (R204). -/
def sendCount (cs : List Call) : Nat := (cs.filter fun c => match c with | .send _ _ => true | .receive _ _ _ => false).length

/-- How many of some calls are receives (R204). -/
def receiveCount (cs : List Call) : Nat := cs.length - sendCount cs

end Sys2Proof.Machine
end

