-- ==== Sys2Proof/Certificates/Slice0/Obligations.lean ====
section
/-! DEFINITION. The statements for the provers. Each docstring names the rule of spec/ it formalises. -/

open Sys2Proof Sys2Proof.Machine

/-! ### Encoding -/

/-- R90, R95, R107: no bit of an operand is lost between an instruction and its request word. -/
def Obligations.DecodeOfEncodeIsInstruction : Prop :=
  ∀ i : Instr, decode (encode i) = .instr i

/-- R100, R107: encoding what was decoded gives the word back with the fields the operation does not read set to 0. -/
def Obligations.EncodeOfDecodeClearsUnreadFields : Prop :=
  ∀ (w : ReqWord) (i : Instr), decode w = .instr i → encode i = w &&& readMask i

/-- R90: the layout of the request word, both ways. -/
def Obligations.RequestWordLayout : Prop :=
  (∀ r : Request,
    r.word.extractLsb' 34 4 = r.op ∧ r.word.extractLsb' 32 2 = r.fmt ∧ r.word.extractLsb' 24 8 = r.d3 ∧
    r.word.extractLsb' 16 8 = r.d2 ∧ r.word.extractLsb' 8 8 = r.d1 ∧ r.word.extractLsb' 0 8 = r.d0 ∧
    Request.ofWord r.word = r) ∧
  ∀ w : ReqWord, (Request.ofWord w).word = w

/-- R91: the layout of the response word. -/
def Obligations.ResponseWordLayout : Prop :=
  ∀ r : Response,
    r.word.getLsbD 47 = r.illegal ∧ r.word.getLsbD 46 = r.halted ∧ r.word.getLsbD 45 = r.wrReq ∧
    r.word.extractLsb' 43 2 = r.fmtO ∧ r.word.extractLsb' 40 3 = r.nbytes ∧ r.word.extractLsb' 32 8 = r.regAddr ∧
    r.word.extractLsb' 24 8 = r.q3 ∧ r.word.extractLsb' 16 8 = r.q2 ∧ r.word.extractLsb' 8 8 = r.q1 ∧
    r.word.extractLsb' 0 8 = r.q0

/-- R109, R110: a word decodes to an operation exactly when its bits under the table's mask are that row's match value. -/
def Obligations.OpcodeTableMatchValues : Prop :=
  ∀ w : ReqWord,
    (w &&& 0x3C00000000#38 = 0x0000000000#38 ↔ ∃ v, decode w = .instr (.b2bcd v)) ∧
    (w &&& 0x3C00000000#38 = 0x0400000000#38 ↔ ∃ b, decode w = .instr (.bcd2b b)) ∧
    (w &&& 0x3C00000000#38 = 0x0800000000#38 ↔ ∃ a b c f, decode w = .instr (.enct a b c f)) ∧
    (w &&& 0x3C00000000#38 = 0x0C00000000#38 ↔ ∃ a b c, decode w = .instr (.dect a b c)) ∧
    (w &&& 0x3C00000000#38 = 0x1000000000#38 ↔ ∃ a b c d, decode w = .instr (.encd a b c d)) ∧
    (w &&& 0x3C00000000#38 = 0x1400000000#38 ↔ ∃ a b c d, decode w = .instr (.decd a b c d)) ∧
    (w &&& 0x3C00000000#38 = 0x1800000000#38 ↔ ∃ m, decode w = .instr (.encsqw m)) ∧
    (w &&& 0x3C00000000#38 = 0x1C00000000#38 ↔ ∃ b, decode w = .instr (.chkhalt b))

/-- R107, R134, R135, R150, R151, R162, R163, R172, R174: the spec's own example words decode to their instructions. -/
def Obligations.ExampleWordsDecode : Prop :=
  decode 0x000000002D#38 = .instr (.b2bcd 45) ∧
  decode 0x0400000059#38 = .instr (.bcd2b 0x59) ∧
  decode 0x0B00052D1E#38 = .instr (.enct 30 45 5 0b11) ∧
  decode 0x0C00654530#38 = .instr (.dect 0x30 0x45 0x65) ∧
  decode 0x101A0B0A03#38 = .instr (.encd 3 10 11 26) ∧
  decode 0x1426111003#38 = .instr (.decd 0x03 0x10 0x11 0x26) ∧
  decode 0x1800000001#38 = .instr (.encsqw 1) ∧
  decode 0x1C00000080#38 = .instr (.chkhalt 0x80)

/-! ### The step -/

/-- R92, R95: when the block moves and the word on its wires decodes to `i`, the step is `exec i`, after which the move is
the host's (the turn is the model's own, log 18). -/
def Obligations.StepRunsDecodedInstruction : Prop :=
  ∀ (s : State) (i : Instr), s.mover = .block → decode s.req.word = .instr i → step s = exec i { s with turn := .host }

/-- A word placed on the wires from outside is the very next thing the machine runs (the placing is the model's own, log 19). -/
def Obligations.PlacedWordRunsInNextStep : Prop :=
  ∀ (s : State) (n w : Nat) (i : Instr), decodeTableWord n w = some i →
    step (s.withFetchWord n w) = exec i { s with req := Request.ofWord (BitVec.ofNat 38 w), turn := .host }

/-- R92: the block answers every one of the 2^38 request words, with the value of the function on words `codec`, and its
answer is all that changes (whose move is next, the model's own `turn` of log 18, is left open here). -/
def Obligations.BlockMoveIsTheCodecFunction : Prop :=
  ∀ s : State, s.mover = .block →
    ∃ t, step s = .next t ∧ t.rsp.word = codec s.req.word ∧ t = { s with turn := t.turn, rsp := t.rsp }

/-- R20, R71: two equal requests always get equal responses, whatever else differs between two states. -/
def Obligations.ResponseDependsOnRequestAlone : Prop :=
  ∀ s₁ s₂ : State, s₁.mover = .block → s₂.mover = .block → s₁.req = s₂.req →
    ∃ t₁ t₂, step s₁ = .next t₁ ∧ step s₂ = .next t₂ ∧ t₁.rsp = t₂.rsp

/-- R97, R100, R107: a request field an operation does not read, and for CHKHALT the low seven bits of `d[0]`, has no effect on the
response; and the encoder puts 0 in every bit outside the operation's view (`d[0]` whole is in CHKHALT's, as R107 writes it). -/
def Obligations.UnreadRequestFieldsHaveNoEffect : Prop :=
  (∀ r r' : Request, r.op = r'.op →
    (r.op = 0b0000#4 ∨ r.op = 0b0001#4 ∨ r.op = 0b0110#4 → r.d0 = r'.d0) →
    (r.op = 0b0010#4 → r.d0 = r'.d0 ∧ r.d1 = r'.d1 ∧ r.d2 = r'.d2 ∧ r.fmt = r'.fmt) →
    (r.op = 0b0011#4 → r.d0 = r'.d0 ∧ r.d1 = r'.d1 ∧ r.d2 = r'.d2) →
    (r.op = 0b0100#4 ∨ r.op = 0b0101#4 → r.d0 = r'.d0 ∧ r.d1 = r'.d1 ∧ r.d2 = r'.d2 ∧ r.d3 = r'.d3) →
    (r.op = 0b0111#4 → r.d0.getLsbD 7 = r'.d0.getLsbD 7) →
    codec r.word = codec r'.word) ∧
  ∀ i : Instr, encode i &&& ~~~(readMask i) = 0

/-- R101: exactly three conditions make a request illegal, whatever the numeric operands. -/
def Obligations.IllegalForExactlyThreeConditions : Prop :=
  ∀ s : State, s.mover = .block →
    ∃ t, step s = .next t ∧
      (t.rsp.illegal = true ↔
        8 ≤ s.req.op.toNat ∨ (s.req.op = 0b0010#4 ∧ s.req.fmt = 0b01#2) ∨ (s.req.op = 0b0110#4 ∧ 5 < s.req.d0.toNat))

/-- R96, R102: an illegal request is answered with the one illegal response word; nothing else happens (whose move is next,
the model's own `turn` of log 18, is left open here), and the next request is answered normally. -/
def Obligations.IllegalRequestGetsIllegalResponse : Prop :=
  ∀ s : State, s.mover = .block →
    (8 ≤ s.req.op.toNat ∨ (s.req.op = 0b0010#4 ∧ s.req.fmt = 0b01#2) ∨ (s.req.op = 0b0110#4 ∧ 5 < s.req.d0.toNat)) →
    ∃ t, step s = .next t ∧ t.rsp = ⟨true, false, false, 0, 0, 0, 0, 0, 0, 0⟩ ∧ t.rsp.word = 0x800000000000#48 ∧
      t = { s with turn := t.turn, rsp := t.rsp } ∧
      ∀ r : Request, ∃ u, step (t.presentRequest r) = .next u ∧ u.rsp.word = codec r.word

/-- R97, R103: for a legal request, every response field the operation does not drive is 0, and `illegal` is 0. -/
def Obligations.UndrivenResponseFieldsAreZero : Prop :=
  ∀ (i : Instr) (s : State), i.wellFormed = true →
    ∃ t, exec i s = .next t ∧ t.rsp.illegal = false ∧
      match i with
      | .b2bcd _ | .bcd2b _ | .encsqw _ =>
        t.rsp.halted = false ∧ t.rsp.wrReq = false ∧ t.rsp.fmtO = 0 ∧ t.rsp.q1 = 0 ∧ t.rsp.q2 = 0 ∧ t.rsp.q3 = 0
      | .enct _ _ _ _ => t.rsp.halted = false ∧ t.rsp.wrReq = false ∧ t.rsp.fmtO = 0 ∧ t.rsp.q3 = 0
      | .dect _ _ _ => t.rsp.halted = false ∧ t.rsp.wrReq = false ∧ t.rsp.q3 = 0
      | .encd _ _ _ _ | .decd _ _ _ _ => t.rsp.halted = false ∧ t.rsp.wrReq = false ∧ t.rsp.fmtO = 0
      | .chkhalt _ => t.rsp.fmtO = 0 ∧ t.rsp.q1 = 0 ∧ t.rsp.q2 = 0 ∧ t.rsp.q3 = 0

/-- R104: the register address and payload length are constants of the operation; both are 0 on an illegal request, the
reserved operation codes included. -/
def Obligations.TransferConstantsPerOperation : Prop :=
  (∀ (i : Instr) (s : State), ∃ t, exec i s = .next t ∧
    (t.rsp.regAddr.toNat, t.rsp.nbytes.toNat) =
      match i with
      | .b2bcd _ | .bcd2b _ => (0x00, 0)
      | .enct _ _ _ fmt => (0x00, if fmt = 0b01#2 then 0 else 3)
      | .dect _ _ _ => (0x00, 3)
      | .encd _ _ _ _ | .decd _ _ _ _ => (0x03, 4)
      | .encsqw mode => if mode.toNat ≤ 5 then (0x07, 1) else (0x00, 0)
      | .chkhalt _ => (0x00, 1)) ∧
  ∀ s : State, s.mover = .block → 8 ≤ s.req.op.toNat →
    ∃ t, step s = .next t ∧ t.rsp.regAddr = 0 ∧ t.rsp.nbytes = 0

/-! ### The operations: result, completion and frame in one equality, then the same of the request's wires -/

/-- B2BCD. Everything but the response is unchanged. For v of 160 to 255 the byte rests on the truncation that the spec marks as
its own reading (R133, D11), the model's log 14. -/
def Obligations.B2bcdGivesBcdByte : Prop :=
  ∀ (v : Byte) (s : State),
    let a : Response :=
      ⟨false, false, false, 0, 0, 0x00, BitVec.ofNat 8 (v.toNat / 10 % 16 * 16 + v.toNat % 10), 0, 0, 0⟩
    exec (.b2bcd v) s = .next { s with rsp := a } ∧
    ∀ (fmt : BitVec 2) (d1 d2 d3 : Byte), s.mover = .block → s.req = ⟨0b0000#4, fmt, v, d1, d2, d3⟩ →
      ∃ t, step s = .next t ∧ t.rsp = a

/-- R135 with R131: BCD2B. Everything but the response is unchanged. -/
def Obligations.Bcd2bGivesBinaryByte : Prop :=
  ∀ (b : Byte) (s : State),
    let a : Response :=
      ⟨false, false, false, 0, 0, 0x00, BitVec.ofNat 8 (b.toNat / 16 * 10 + b.toNat % 16), 0, 0, 0⟩
    exec (.bcd2b b) s = .next { s with rsp := a } ∧
    ∀ (fmt : BitVec 2) (d1 d2 d3 : Byte), s.mover = .block → s.req = ⟨0b0001#4, fmt, b, d1, d2, d3⟩ →
      ∃ t, step s = .next t ∧ t.rsp = a

/-- R150: ENCT, the three legal formats and the reserved one. Everything but the response is unchanged. The byte functions
have their own statement, `TimeRegisterBytesBitByBit`. -/
def Obligations.EnctGivesTimeRegisterBytes : Prop :=
  ∀ (sec min hr : Byte) (fmt : BitVec 2) (s : State),
    let a : Response :=
      if fmt = 0b01#2 then ⟨true, false, false, 0, 0, 0x00, 0, 0, 0, 0⟩
      else ⟨false, false, false, 0, 3, 0x00, b2bcd sec &&& 0x7F#8, b2bcd min,
        if fmt = 0b00#2 then b2bcd hr &&& 0xBF#8
        else if fmt = 0b10#2 then (b2bcd hr ||| 0x40#8) &&& 0xDF#8
        else b2bcd hr ||| 0x60#8, 0⟩
    exec (.enct sec min hr fmt) s = .next { s with rsp := a } ∧
    ∀ d3 : Byte, s.mover = .block → s.req = ⟨0b0010#4, fmt, sec, min, hr, d3⟩ →
      ∃ t, step s = .next t ∧ t.rsp = a

/-- The time register bytes bit by bit. `bcd` is the BCD byte as a number; for operands of 160 to 255 it rests on the truncation
that the spec marks as its own reading (R133, D11), the model's log 14. -/
def Obligations.TimeRegisterBytesBitByBit : Prop :=
  let bcd := fun (v : Byte) => v.toNat / 10 % 16 * 16 + v.toNat % 10
  ∀ (sec min hr : Byte) (fmt : BitVec 2) (s : State), fmt ≠ 0b01#2 →
    ∃ t, exec (.enct sec min hr fmt) s = .next t ∧
      t.rsp.q0.toNat = bcd sec % 128 ∧
      t.rsp.q1.toNat = bcd min ∧
      t.rsp.q2.getLsbD 6 = fmt.getLsbD 1 ∧
      (fmt.getLsbD 1 = true → t.rsp.q2.getLsbD 5 = fmt.getLsbD 0) ∧
      (fmt.getLsbD 1 = false → t.rsp.q2.getLsbD 5 = (bcd hr).testBit 5) ∧
      (∀ k, k = 7 ∨ k ≤ 4 → t.rsp.q2.getLsbD k = (bcd hr).testBit k)

/-- DECT. Everything but the response is unchanged. That the minutes byte is decoded whole, bit 7 counting as 80, is the spec's
own reading of a silence (D23), the model's log 16. -/
def Obligations.DectGivesTimeValue : Prop :=
  ∀ (b0 b1 b2 : Byte) (s : State),
    let a : Response :=
      ⟨false, false, false,
        if b2.getLsbD 6 then (if b2.getLsbD 5 then 0b11#2 else 0b10#2) else 0b00#2,
        3, 0x00,
        BitVec.ofNat 8 (b0.toNat / 16 % 8 * 10 + b0.toNat % 16),
        BitVec.ofNat 8 (b1.toNat / 16 * 10 + b1.toNat % 16),
        BitVec.ofNat 8 ((if b2.getLsbD 6 then b2.toNat / 16 % 2 else b2.toNat / 16 % 4) * 10 + b2.toNat % 16), 0⟩
    exec (.dect b0 b1 b2) s = .next { s with rsp := a } ∧
    ∀ (fmt : BitVec 2) (d3 : Byte), s.mover = .block → s.req = ⟨0b0011#4, fmt, b0, b1, b2, d3⟩ →
      ∃ t, step s = .next t ∧ t.rsp = a

/-- R143, R144, R145: the largest values DECT gives, and the format code `{b[6], b[6] & b[5]}`, which is never the reserved
one. -/
def Obligations.DecodedTimeBoundsAndFormat : Prop :=
  ∀ (b0 b1 b2 : Byte) (s : State), ∃ t, exec (.dect b0 b1 b2) s = .next t ∧
    t.rsp.q0.toNat ≤ 85 ∧ t.rsp.q1.toNat ≤ 165 ∧
    t.rsp.fmtO = BitVec.ofBool (b2.getLsbD 6) ++ BitVec.ofBool (b2.getLsbD 6 && b2.getLsbD 5) ∧ t.rsp.fmtO ≠ 0b01 ∧
    (b2.getLsbD 6 = true → t.rsp.q2.toNat ≤ 25) ∧ (b2.getLsbD 6 = false → t.rsp.q2.toNat ≤ 45)

/-- ENCD. Everything but the response is unchanged. For fields of 160 to 255 the byte rests on the truncation that the spec marks
as its own reading (R133, D11), the model's log 14. -/
def Obligations.EncdGivesDateRegisterBytes : Prop :=
  let bcd := fun (v : Byte) => BitVec.ofNat 8 (v.toNat / 10 % 16 * 16 + v.toNat % 10)
  ∀ (day date month year : Byte) (s : State),
    let a : Response := ⟨false, false, false, 0, 4, 0x03, bcd day, bcd date, bcd month, bcd year⟩
    exec (.encd day date month year) s = .next { s with rsp := a } ∧
    ∀ fmt : BitVec 2, s.mover = .block → s.req = ⟨0b0100#4, fmt, day, date, month, year⟩ →
      ∃ t, step s = .next t ∧ t.rsp = a

/-- R163 with R161: DECD. Everything but the response is unchanged. -/
def Obligations.DecdGivesDateValue : Prop :=
  let bin := fun (b : Byte) => BitVec.ofNat 8 (b.toNat / 16 * 10 + b.toNat % 16)
  ∀ (b0 b1 b2 b3 : Byte) (s : State),
    let a : Response := ⟨false, false, false, 0, 4, 0x03, bin b0, bin b1, bin b2, bin b3⟩
    exec (.decd b0 b1 b2 b3) s = .next { s with rsp := a } ∧
    ∀ fmt : BitVec 2, s.mover = .block → s.req = ⟨0b0101#4, fmt, b0, b1, b2, b3⟩ →
      ∃ t, step s = .next t ∧ t.rsp = a

/-- R170, R172: ENCSQW, the six modes and the reserved select values. Everything but the response is unchanged. -/
def Obligations.EncsqwGivesControlByte : Prop :=
  ∀ (sel : Byte) (s : State),
    let a : Response :=
      if 5 < sel.toNat then ⟨true, false, false, 0, 0, 0x00, 0, 0, 0, 0⟩
      else ⟨false, false, false, 0, 1, 0x07,
        (if sel = 0#8 then 0x00#8 else if sel = 1#8 then 0x10#8 else if sel = 2#8 then 0x11#8 else if sel = 3#8 then 0x12#8
         else if sel = 4#8 then 0x13#8 else 0x80#8), 0, 0, 0⟩
    exec (.encsqw sel) s = .next { s with rsp := a } ∧
    ∀ (fmt : BitVec 2) (d1 d2 d3 : Byte), s.mover = .block → s.req = ⟨0b0110#4, fmt, sel, d1, d2, d3⟩ →
      ∃ t, step s = .next t ∧ t.rsp = a

/-- R173, R174: CHKHALT. Everything but the response is unchanged. -/
def Obligations.ChkhaltTestsClockHaltBit : Prop :=
  ∀ (b : Byte) (s : State),
    let a : Response := ⟨false, decide (128 ≤ b.toNat), decide (128 ≤ b.toNat), 0, 1, 0x00, 0x00, 0, 0, 0⟩
    exec (.chkhalt b) s = .next { s with rsp := a } ∧
    ∀ (fmt : BitVec 2) (d1 d2 d3 : Byte), s.mover = .block → s.req = ⟨0b0111#4, fmt, b, d1, d2, d3⟩ →
      ∃ t, step s = .next t ∧ t.rsp = a

/-- R20, R60, R230: every operation, on every operand and in every state, answers with a next state in which nothing but the
response differs: no register of the device, no pointer, no call, no host field. -/
def Obligations.EveryOperationChangesOnlyTheResponse : Prop :=
  ∀ (i : Instr) (s : State), ∃ t, exec i s = .next t ∧ t = { s with rsp := t.rsp } ∧
    ∀ a : Nat, t.dev.regs.read a = s.dev.regs.read a

/-! ### Laws of the codec -/

/-- R133: B2BCD out of range keeps the low four bits of the quotient and signals no error (the truncation to one byte is
the spec's own reading, D11; log 14). -/
def Obligations.B2bcdOutOfRangeValues : Prop :=
  ∀ (v : Byte) (s : State), 100 ≤ v.toNat → ∃ t, exec (.b2bcd v) s = .next t ∧ t.rsp.illegal = false ∧
    (v.toNat ≤ 159 → t.rsp.q0.toNat / 16 = v.toNat / 10 ∧ 10 ≤ t.rsp.q0.toNat / 16) ∧
    (160 ≤ v.toNat → t.rsp.q0.toNat / 16 = v.toNat / 10 - 16 ∧ t.rsp.q0.toNat / 16 ≤ 9) ∧
    t.rsp.q0.toNat % 16 = v.toNat % 10

/-- R137, R138: the exact extent of the two BCD round trips (outside 0 to 99 it rests on the spec's reading D11). -/
def Obligations.BcdRoundTripExactExtent : Prop :=
  (∀ (v : Byte) (s : State), ∃ t u, exec (.b2bcd v) s = .next t ∧ exec (.bcd2b t.rsp.q0) t = .next u ∧
    (u.rsp.q0 = v ↔ v.toNat ≤ 159)) ∧
  ∀ (b : Byte) (s : State), ∃ t u, exec (.bcd2b b) s = .next t ∧ exec (.b2bcd t.rsp.q0) t = .next u ∧
    (u.rsp.q0 = b ↔ b.toNat % 16 ≤ 9)

/-- R140, R175, R266: no operation gives a seconds byte to write with the clock-halt bit set. -/
def Obligations.NoSecondsByteSetsClockHalt : Prop :=
  ∀ (i : Instr) (s : State),
    (match i with | .enct _ _ _ _ | .chkhalt _ => True | _ => False) →
    ∃ t, exec i s = .next t ∧ t.rsp.q0.getLsbD 7 = false

/-- R152: a time value in range survives ENCT then DECT, in all three formats. -/
def Obligations.TimeRoundTripInRange : Prop :=
  ∀ (sec min hr : Byte) (fmt : BitVec 2) (s : State), sec.toNat ≤ 59 → min.toNat ≤ 59 →
    (fmt = 0b00#2 ∧ hr.toNat ≤ 23) ∨ ((fmt = 0b10#2 ∨ fmt = 0b11#2) ∧ 1 ≤ hr.toNat ∧ hr.toNat ≤ 12) →
    ∃ t u, exec (.enct sec min hr fmt) s = .next t ∧ exec (.dect t.rsp.q0 t.rsp.q1 t.rsp.q2) t = .next u ∧
      u.rsp.q0 = sec ∧ u.rsp.q1 = min ∧ u.rsp.q2 = hr ∧ u.rsp.fmtO = fmt

/-- R153: the exact extent of the time round trip, field by field; the format always survives. That minutes of 80 to 159 survive
rests on DECT leaving bit 7 of the minutes byte unmasked, the spec's own reading of a silence (D23; log 16), and what becomes of
operands of 160 to 255 on the truncation to one byte, the spec's own reading too (D11; log 14). -/
def Obligations.TimeRoundTripExactExtent : Prop :=
  ∀ (sec min hr : Byte) (fmt : BitVec 2) (s : State), fmt ≠ 0b01#2 →
    ∃ t u, exec (.enct sec min hr fmt) s = .next t ∧ exec (.dect t.rsp.q0 t.rsp.q1 t.rsp.q2) t = .next u ∧
      (u.rsp.q0 = sec ↔ sec.toNat ≤ 79) ∧ (u.rsp.q1 = min ↔ min.toNat ≤ 159) ∧
      (u.rsp.q2 = hr ↔ hr.toNat ≤ if fmt = 0b00#2 then 39 else 19) ∧ u.rsp.fmtO = fmt

/-- R164: date values of 0 to 99 survive ENCD then DECD, and valid BCD bytes survive DECD then ENCD. -/
def Obligations.DateRoundTrip : Prop :=
  (∀ (day date month year : Byte) (s : State),
    day.toNat ≤ 99 → date.toNat ≤ 99 → month.toNat ≤ 99 → year.toNat ≤ 99 →
    ∃ t u, exec (.encd day date month year) s = .next t ∧
      exec (.decd t.rsp.q0 t.rsp.q1 t.rsp.q2 t.rsp.q3) t = .next u ∧
      u.rsp.q0 = day ∧ u.rsp.q1 = date ∧ u.rsp.q2 = month ∧ u.rsp.q3 = year) ∧
  ∀ (b0 b1 b2 b3 : Byte) (s : State),
    validBcd b0 = true → validBcd b1 = true → validBcd b2 = true → validBcd b3 = true →
    ∃ t u, exec (.decd b0 b1 b2 b3) s = .next t ∧
      exec (.encd t.rsp.q0 t.rsp.q1 t.rsp.q2 t.rsp.q3) t = .next u ∧
      u.rsp.q0 = b0 ∧ u.rsp.q1 = b1 ∧ u.rsp.q2 = b2 ∧ u.rsp.q3 = b3

/-- R31, R33: where the digits of a valid time stand in the seconds and hours registers. -/
def Obligations.DigitFieldsOfTimeRegisters : Prop :=
  ∀ (sec min hr : Byte) (fmt : BitVec 2) (s : State), fmt ≠ 0b01#2 → sec.toNat ≤ 59 →
    ∃ t, exec (.enct sec min hr fmt) s = .next t ∧
      t.rsp.q0.getLsbD 7 = false ∧
      (t.rsp.q0.extractLsb' 4 3).toNat = sec.toNat / 10 ∧ (t.rsp.q0.extractLsb' 0 4).toNat = sec.toNat % 10 ∧
      (fmt = 0b00#2 → hr.toNat ≤ 23 → t.rsp.q2.getLsbD 6 = false ∧
        (t.rsp.q2.extractLsb' 4 2).toNat = hr.toNat / 10 ∧ (t.rsp.q2.extractLsb' 0 4).toNat = hr.toNat % 10) ∧
      (fmt ≠ 0b00#2 → 1 ≤ hr.toNat → hr.toNat ≤ 12 → t.rsp.q2.getLsbD 6 = true ∧
        (t.rsp.q2.getLsbD 5 = true ↔ fmt = 0b11#2) ∧
        (t.rsp.q2.extractLsb' 4 1).toNat = hr.toNat / 10 ∧ (t.rsp.q2.extractLsb' 0 4).toNat = hr.toNat % 10)

/-! ### Whole-machine rules -/

/-- Every step, of the block or of the host, keeps the invariant, from every state that has it. -/
def Obligations.EveryStepKeepsInvariant : Prop :=
  ∀ s t : State, s.Inv → step s = .next t → t.Inv

/-- The reset state has the invariant (its values for what the spec leaves open are the model's, logs 3 to 8). -/
def Obligations.ResetHasInvariant : Prop :=
  State.reset.Inv

/-- R24, R70, R98, R102: the shape of every response in every state that has the invariant: at most 4 payload bytes, an
address of an image, never the reserved format, `halted` equal to `wr_req`, and all 0 beside `illegal`. -/
def Obligations.ResponseShape : Prop :=
  ∀ s : State, s.Inv →
    s.rsp.nbytes.toNat ≤ 4 ∧ s.rsp.frame.length = s.rsp.nbytes.toNat + 1 ∧
    (s.rsp.regAddr = 0x00 ∨ s.rsp.regAddr = 0x03 ∨ s.rsp.regAddr = 0x07) ∧
    s.rsp.fmtO ≠ 0b01 ∧ s.rsp.halted = s.rsp.wrReq ∧
    (s.rsp.illegal = true → s.rsp.word = 0x800000000000#48)

/-- The device changes only in a step of the host that makes a transport call; a step makes at most one call, and the record of
earlier calls stays. That the device stands still outside the host's calls is the model's choice (log 9, with logs 8 and 11): a
running clock changes 0x00 to 0x06 at any time (R278), and the model takes those changes just before and just after a call. -/
def Obligations.DeviceChangesOnlyInHostCalls : Prop :=
  ∀ s t : State, step s = .next t →
    (t.calls = s.calls ∧ t.dev = s.dev) ∨ (s.mover = .host ∧ s.transport = true ∧ ∃ c, t.calls = s.calls ++ [c])

/-- R43, D18, D22: no step changes the open parameters or takes the transport away. -/
def Obligations.ParametersAndTransportStay : Prop :=
  ∀ s t : State, step s = .next t → t.params = s.params ∧ t.transport = s.transport

/-- Only the block's move changes the sampled response, and the block's move changes nothing of the host's program or results.
That a host move, presenting a request among them, leaves the sampled response in place is the model's choice (log 1); who moves
is the model's choice too (log 18). -/
def Obligations.OnlyTheBlockAnswers : Prop :=
  ∀ s t : State, step s = .next t →
    (s.mover = .host → t.rsp = s.rsp) ∧
    (s.mover = .block → t.todo = s.todo ∧ t.program = s.program ∧ t.returned = s.returned ∧ t.received = s.received)

/-! ### The host over the transport and the device -/

/-- R192: a register write is one send of the address and the payload, payload byte `i` is stored at `addr + i`, and no other
register changes (on a device that changes nothing on its own in the call). -/
def Obligations.RegisterWriteStoresPayload : Prop :=
  ∀ (s : State) (addr : Byte) (v : List Byte), s.transport = true → s.Quiet 1 → v ≠ [] →
    s.params.sameRegion addr.toNat (addr.toNat + (v.length - 1)) = true →
    ∃ t, s.send false (addr :: v) = .next t ∧ t.calls = s.calls ++ [Call.send 0x68#8 (addr :: v)] ∧
      (∀ i < v.length, t.dev.regs.read (addr.toNat + i) = v[i]?) ∧
      ∀ a, (a < addr.toNat ∨ addr.toNat + v.length ≤ a) → t.dev.regs.read a = s.dev.regs.read a

/-- R193, R201: a register read, and a raw read of the general-purpose block, is one send of the address and one receive; byte `i`
is what register `addr + i` holds, whether a step wrote it or it stands from power-on (log 4; on a device that changes nothing on
its own meanwhile). -/
def Obligations.RegisterReadReturnsContents : Prop :=
  ∀ (s : State) (raw : Bool) (addr : Byte) (n : Nat), s.transport = true → s.Quiet (n + 2) → 0 < n →
    s.params.reaches raw addr.toNat (addr.toNat + (n - 1)) = true →
    ∃ t u, s.send false [addr] = .next t ∧ t.receive raw n = .next u ∧
      u.calls = s.calls ++ [Call.send 0x68#8 [addr], Call.receive 0x68#8 n u.received] ∧ u.received.length = n ∧
      ∀ i < n, u.received[i]? = some (s.dev.regs.byte (addr.toNat + i))

/-- A receive that ends, well or badly, leaves every register above 0x06 as it was. This is the model's choice: that 0x07 and the
general-purpose registers keep their bytes meanwhile is log 9 (unsafe there), and that they do so when the call fails is log 10.
R67 says only that no read is described as having a side effect. -/
def Obligations.ReceiveLeavesOtherRegisters : Prop :=
  ∀ (s t : State) (raw : Bool) (n : Nat), s.receive raw n = .next t → ∀ a, 6 < a → t.dev.regs.read a = s.dev.regs.read a

/-- R195: `init` reads the seconds register, writes 0x00 to it exactly when bit 7 was found set, and returns that bit. -/
def Obligations.InitWritesExactlyWhenHalted : Prop :=
  ∀ (s : State) (rest : List HostOp), s.Before .init rest → s.Returning 4 →
    ∃ t b, run 7 s = .next t ∧ t.todo = [] ∧ t.program = rest ∧
      t.returned = s.returned ++ [HostResult.halted (b.getLsbD 7)] ∧
      t.calls = s.calls ++ [Call.send 0x68#8 [0x00#8], Call.receive 0x68#8 1 [b]] ++
        (if b.getLsbD 7 then [Call.send 0x68#8 [0x00#8, 0x00#8]] else []) ∧
      (s.Quiet 4 → b = s.dev.regs.byte 0x00)

/-- R47, R195, R267: after `init` on a halted clock the seconds register holds 0x00 and no other register is touched (on a
device that changes nothing on its own meanwhile). -/
def Obligations.InitRestartsHaltedClock : Prop :=
  ∀ (s : State) (rest : List HostOp), s.Before .init rest → s.Quiet 4 → (s.dev.regs.byte 0x00).getLsbD 7 = true →
    ∃ t, run 7 s = .next t ∧ t.returned = s.returned ++ [HostResult.halted true] ∧ t.dev.regs.read 0x00 = some 0x00#8 ∧
      t.dev.oscillatorStopped = false ∧
      ∀ a, a ≠ 0x00 → t.dev.regs.read a = s.dev.regs.read a

/-- R196: `set_time` with one of the three formats sends the three register bytes in one frame from 0x00 on and returns
nothing; on a device that changes nothing on its own in the call, the oscillator then runs (R67, R266). -/
def Obligations.SetTimeSendsOneFrame : Prop :=
  ∀ (s : State) (rest : List HostOp) (v : TimeValue), s.Before (.setTime v) rest → s.Returning 1 → v.format ≠ 0b01#2 →
    ∃ t r, run 5 s = .next t ∧ exec (.enct v.seconds v.minutes v.hours v.format) s = .next r ∧
      t.calls = s.calls ++ [Call.send 0x68#8 [0x00#8, r.rsp.q0, r.rsp.q1, r.rsp.q2]] ∧
      t.returned = s.returned ++ [HostResult.nothing] ∧ t.todo = [] ∧ t.program = rest ∧
      (s.Quiet 1 → t.dev.oscillatorStopped = false)

/-- R197: `get_time` reads three bytes from 0x00 on and returns what DECT makes of them. -/
def Obligations.GetTimeReturnsDecodedBytes : Prop :=
  ∀ (s : State) (rest : List HostOp), s.Before .getTime rest → s.Returning 5 →
    ∃ t r b0 b1 b2, run 6 s = .next t ∧ exec (.dect b0 b1 b2) s = .next r ∧
      t.calls = s.calls ++ [Call.send 0x68#8 [0x00#8], Call.receive 0x68#8 3 [b0, b1, b2]] ∧
      t.returned = s.returned ++ [HostResult.time ⟨r.rsp.q0, r.rsp.q1, r.rsp.q2, r.rsp.fmtO⟩] ∧ t.todo = [] ∧ t.program = rest

/-- R198: `set_date` sends the four register bytes in one frame from 0x03 on and returns nothing. -/
def Obligations.SetDateSendsOneFrame : Prop :=
  ∀ (s : State) (rest : List HostOp) (v : DateValue), s.Before (.setDate v) rest → s.Returning 1 →
    ∃ t r, run 5 s = .next t ∧ exec (.encd v.day v.date v.month v.year) s = .next r ∧
      t.calls = s.calls ++ [Call.send 0x68#8 [0x03#8, r.rsp.q0, r.rsp.q1, r.rsp.q2, r.rsp.q3]] ∧
      t.returned = s.returned ++ [HostResult.nothing] ∧ t.todo = [] ∧ t.program = rest

/-- R199: `get_date` reads four bytes from 0x03 on and returns what DECD makes of them. -/
def Obligations.GetDateReturnsDecodedBytes : Prop :=
  ∀ (s : State) (rest : List HostOp), s.Before .getDate rest → s.Returning 6 →
    ∃ t r b0 b1 b2 b3, run 6 s = .next t ∧ exec (.decd b0 b1 b2 b3) s = .next r ∧
      t.calls = s.calls ++ [Call.send 0x68#8 [0x03#8], Call.receive 0x68#8 4 [b0, b1, b2, b3]] ∧
      t.returned = s.returned ++ [HostResult.date ⟨r.rsp.q0, r.rsp.q1, r.rsp.q2, r.rsp.q3⟩] ∧ t.todo = [] ∧ t.program = rest

/-- R171, R200: `set_square_wave` sends the mode's byte to the control register in one frame of one payload byte; and on a
device that changes nothing on its own in the call the pin is then set to that mode (the model's deduction, log 23); for a
reserved select value no call is made (R233), and the sequence returns `illegalRequest`, the model's own name (log 22). -/
def Obligations.SetSquareWaveSendsOneFrame : Prop :=
  ∀ (s : State) (rest : List HostOp) (mode : Byte), s.Before (.setSquareWave mode) rest →
    (mode.toNat ≤ 5 → s.Returning 1 →
      ∃ t r, run 5 s = .next t ∧ exec (.encsqw mode) s = .next r ∧
        t.calls = s.calls ++ [Call.send 0x68#8 [0x07#8, r.rsp.q0]] ∧
        t.returned = s.returned ++ [HostResult.nothing] ∧ t.todo = [] ∧ t.program = rest ∧
        (s.Quiet 1 → t.dev.squareWavePin = modeOfSelect mode)) ∧
    (5 < mode.toNat →
      ∃ t, run 4 s = .next t ∧ t.calls = s.calls ∧ t.dev = s.dev ∧
        t.returned = s.returned ++ [HostResult.illegalRequest] ∧ t.todo = [] ∧ t.program = rest)

/-- `ram_read` sends the address and returns the bytes received raw, with no block request (R201). Its case of length 0 is the
model's choice (log 25): N13 says that the behaviour for length 0 is not given. -/
def Obligations.RamReadReturnsRawBytes : Prop :=
  ∀ (s : State) (rest : List HostOp) (address : Byte) (n : Nat), s.Before (.ramRead address n) rest →
    s.Returning (n + 2) →
    ∃ t, run 4 s = .next t ∧ t.received.length = n ∧
      t.calls = s.calls ++ [Call.send 0x68#8 [address], Call.receive 0x68#8 n t.received] ∧
      t.returned = s.returned ++ [HostResult.bytes t.received] ∧ t.req = s.req ∧ t.rsp = s.rsp ∧ t.todo = [] ∧ t.program = rest

/-- R202: `ram_write` makes two sends, the address alone and the payload alone, with no block request; if the second one
fails unobserved, the pointer is left set and no data is written (on a device that changes nothing on its own). That this holds
of every failure of the second call is the model's choice (log 10): R202 speaks of a failure between the two calls. The case of an
empty payload is the model's choice too (log 25). -/
def Obligations.RamWriteMakesTwoSends : Prop :=
  ∀ (s : State) (rest : List HostOp) (address : Byte) (bytes : List Byte), s.Before (.ramWrite address bytes) rest →
    (s.Returning 2 →
      ∃ t, run 4 s = .next t ∧ t.calls = s.calls ++ [Call.send 0x68#8 [address], Call.send 0x68#8 bytes] ∧
        t.returned = s.returned ++ [HostResult.nothing] ∧ t.req = s.req ∧ t.rsp = s.rsp ∧ t.todo = [] ∧ t.program = rest) ∧
    (∀ e₁ e₂ es, s.env = e₁ :: e₂ :: es → e₁.outcome = .returns → e₁.Still → e₂.outcome = .fails →
      e₂.Still → s.params.transportFallible = false →
      ∃ t, run 4 s = .next t ∧ t.dev.ptr = address ∧ t.dev.regs = s.dev.regs ∧
        t.calls = s.calls ++ [Call.send 0x68#8 [address], Call.send 0x68#8 bytes] ∧ t.returned = s.returned ++ [HostResult.nothing])

/-- R204: the transport calls of each sequence, when its requests are legal and its calls return. That the calls are made at length
0 and with an empty payload too is the model's choice (log 25). -/
def Obligations.TransportCallsPerSequence : Prop :=
  ∀ (s : State) (op : HostOp) (rest : List HostOp), s.Before op rest → s.Returning op.events → op.legal = true →
    ∃ t, run op.steps s = .next t ∧ t.todo = [] ∧ t.program = rest ∧
      let c := (sendCount (s.callsSince t), receiveCount (s.callsSince t))
      match op with
      | .request _ => c = (0, 0)
      | .init => c = if t.rsp.halted then (2, 1) else (1, 1)
      | .setTime _ | .setDate _ | .setSquareWave _ => c = (1, 0)
      | .getTime | .getDate | .ramRead _ _ => c = (1, 1)
      | .ramWrite _ _ => c = (2, 0)

/-- A host sequence that gets an illegal response stops without a transport call for that request (R233); the value
`illegalRequest` that it returns is the model's own (log 22). -/
def Obligations.IllegalResponseStopsSequence : Prop :=
  ∀ (s : State) (a : HostAct) (more : List HostAct), s.turn = .host → s.todo = a :: more →
    a = .writeImage ∨ a = .writeImageIfRequested → s.rsp.illegal = true →
    step s = .next { s with todo := [], returned := s.returned ++ [HostResult.illegalRequest] }

/-- R191, R231: a failed call, be it a pointer, a payload alone, a register write or a receive, is made and recorded; by default
it is unobserved, and the sequence goes on; with `TRANSPORT_FALLIBLE` the sequence stops at it and returns the error (whose name
`transportError` is the model's own, log 10). -/
def Obligations.FailedCallDefaultAndFallible : Prop :=
  ∀ (s : State) (a : HostAct) (more : List HostAct) (e : EnvEvent) (es : List EnvEvent),
    s.turn = .host → s.transport = true → s.todo = a :: more → s.env = e :: es → e.outcome = .fails →
    let stops := fun (t : State) =>
      t.program = s.program ∧
      (s.params.transportFallible = false → t.todo = more ∧ t.returned = s.returned) ∧
      (s.params.transportFallible = true → t.todo = [] ∧ t.returned = s.returned ++ [HostResult.transportError])
    (∀ buf, a.sends s.rsp = some buf →
      ∃ t, step s = .next t ∧ t.calls = s.calls ++ [Call.send 0x68#8 buf] ∧ t.received = s.received ∧ stops t) ∧
    (∀ raw n, a = .receive raw n →
      ∃ t, step s = .next t ∧ t.calls = s.calls ++ [Call.receive 0x68#8 n t.received] ∧ t.received.length = n ∧ stops t)

/-- R263, U16: the two stops (their form is the model's choice, logs 7 and 13): a call without the transport capabilities, and a
call that never returns. No operation of the block is among them. A call attempted without the transport, be it a pointer, a
payload alone, a register write or a receive, always is one. -/
def Obligations.StopsAreTransportStops : Prop :=
  ∀ s : State, (∀ r, step s ≠ .refused r) ∧
    (step s = .fault .noTransport → s.transport = false ∧ s.mover = .host) ∧
    (step s = .fault .transportHang → s.transport = true ∧ s.mover = .host ∧ s.event.outcome = .hangs) ∧
    (∀ a more, s.turn = .host → s.todo = a :: more → ((a.sends s.rsp).isSome = true ∨ ∃ raw n, a = .receive raw n) →
      s.transport = false → step s = .fault .noTransport)

/-- R72, R78, R277: every host sequence comes to an end in a bounded number of steps, legal or not, failing calls or not, as
long as no call hangs; it ends with exactly one returned value and leaves the rest of the program standing. -/
def Obligations.EverySequenceEnds : Prop :=
  ∀ (s : State) (op : HostOp) (rest : List HostOp), s.Before op rest → s.Ending op.events →
    ∃ k t x, k ≤ op.steps ∧ run k s = .next t ∧ t.todo = [] ∧ t.program = rest ∧ t.turn = .host ∧
      t.returned = s.returned ++ [x]

/-- R101, R232: a legal host operation runs to its end with no fault and no illegal response. -/
def Obligations.LegalOperationRunsSafely : Prop :=
  ∀ (s : State) (op : HostOp) (rest : List HostOp), s.Before op rest → s.Returning op.events → op.legal = true →
    s.rsp.illegal = false → SafeRun op.steps s

/-- R152: `set_time` then `get_time` returns the time value that was set, in all three formats, on a device that changes
nothing on its own and with calls that return. -/
def Obligations.SetTimeThenGetTimeReturnsIt : Prop :=
  ∀ (s : State) (v : TimeValue) (rest : List HostOp), s.Before (.setTime v) (.getTime :: rest) → s.Quiet 6 →
    v.seconds.toNat ≤ 59 → v.minutes.toNat ≤ 59 →
    (v.format = 0b00#2 ∧ v.hours.toNat ≤ 23) ∨
      ((v.format = 0b10#2 ∨ v.format = 0b11#2) ∧ 1 ≤ v.hours.toNat ∧ v.hours.toNat ≤ 12) →
    ∃ t, run 11 s = .next t ∧ t.returned = s.returned ++ [HostResult.nothing, HostResult.time v] ∧ t.program = rest ∧ t.todo = []

/-- R62, R164: `set_date` then `get_date` returns the date value that was set, and leaves every register outside 0x03 to 0x06
as it was, on a device that changes nothing on its own and with calls that return. -/
def Obligations.SetDateThenGetDateReturnsIt : Prop :=
  ∀ (s : State) (v : DateValue) (rest : List HostOp), s.Before (.setDate v) (.getDate :: rest) → s.Quiet 7 →
    v.day.toNat ≤ 99 → v.date.toNat ≤ 99 → v.month.toNat ≤ 99 → v.year.toNat ≤ 99 →
    ∃ t, run 11 s = .next t ∧ t.returned = s.returned ++ [HostResult.nothing, HostResult.date v] ∧ t.program = rest ∧ t.todo = [] ∧
      ∀ a, (a < 0x03 ∨ 0x06 < a) → t.dev.regs.read a = s.dev.regs.read a

/-- R264, R272, U7: a `ram_read` aimed outside the general-purpose block shows nothing of any register, neither the control
register nor the clock-halt bit: whatever the registers hold, it returns the same bytes (that these are the environment's free
values is the model's form of "any value", log 26). -/
def Obligations.RamReadOutsideRamShowsNoRegister : Prop :=
  ∀ (s : State) (rest : List HostOp) (address : Byte) (n : Nat) (regs : Memory), s.Before (.ramRead address n) rest →
    s.Returning (n + 2) → s.params.inRam address.toNat = false →
    ∃ t t', run 4 s = .next t ∧ run 4 { s with dev := { s.dev with regs := regs } } = .next t' ∧
      t'.received = t.received ∧ t'.returned = t.returned
end

