-- ==== Sys2Proof/Laws/State.lean ====
section
/-! SUPPORT. One lemma per field per update of State, so that no proof unfolds a record update. -/

namespace Sys2Proof.Machine

@[simp] theorem State.respond_params (s : State) (r : Response) : (s.respond r).params = s.params := rfl
@[simp] theorem State.respond_req (s : State) (r : Response) : (s.respond r).req = s.req := rfl
@[simp] theorem State.respond_rsp (s : State) (r : Response) : (s.respond r).rsp = r := rfl
@[simp] theorem State.respond_turn (s : State) (r : Response) : (s.respond r).turn = s.turn := rfl
@[simp] theorem State.respond_transport (s : State) (r : Response) : (s.respond r).transport = s.transport := rfl
@[simp] theorem State.respond_program (s : State) (r : Response) : (s.respond r).program = s.program := rfl
@[simp] theorem State.respond_todo (s : State) (r : Response) : (s.respond r).todo = s.todo := rfl
@[simp] theorem State.respond_received (s : State) (r : Response) : (s.respond r).received = s.received := rfl
@[simp] theorem State.respond_returned (s : State) (r : Response) : (s.respond r).returned = s.returned := rfl
@[simp] theorem State.respond_calls (s : State) (r : Response) : (s.respond r).calls = s.calls := rfl
@[simp] theorem State.respond_dev (s : State) (r : Response) : (s.respond r).dev = s.dev := rfl
@[simp] theorem State.respond_env (s : State) (r : Response) : (s.respond r).env = s.env := rfl
@[simp] theorem State.respond_freeIdx (s : State) (r : Response) : (s.respond r).freeIdx = s.freeIdx := rfl

@[simp] theorem State.answerIllegal_params (s : State) : (s.answerIllegal).params = s.params := rfl
@[simp] theorem State.answerIllegal_req (s : State) : (s.answerIllegal).req = s.req := rfl
@[simp] theorem State.answerIllegal_rsp (s : State) : (s.answerIllegal).rsp = Response.illegalAnswer := rfl
@[simp] theorem State.answerIllegal_turn (s : State) : (s.answerIllegal).turn = s.turn := rfl
@[simp] theorem State.answerIllegal_transport (s : State) : (s.answerIllegal).transport = s.transport := rfl
@[simp] theorem State.answerIllegal_program (s : State) : (s.answerIllegal).program = s.program := rfl
@[simp] theorem State.answerIllegal_todo (s : State) : (s.answerIllegal).todo = s.todo := rfl
@[simp] theorem State.answerIllegal_received (s : State) : (s.answerIllegal).received = s.received := rfl
@[simp] theorem State.answerIllegal_returned (s : State) : (s.answerIllegal).returned = s.returned := rfl
@[simp] theorem State.answerIllegal_calls (s : State) : (s.answerIllegal).calls = s.calls := rfl
@[simp] theorem State.answerIllegal_dev (s : State) : (s.answerIllegal).dev = s.dev := rfl
@[simp] theorem State.answerIllegal_env (s : State) : (s.answerIllegal).env = s.env := rfl
@[simp] theorem State.answerIllegal_freeIdx (s : State) : (s.answerIllegal).freeIdx = s.freeIdx := rfl

@[simp] theorem State.answerRejected_params (s : State) (e : DecodeError) : (s.answerRejected e).params = s.params := rfl
@[simp] theorem State.answerRejected_req (s : State) (e : DecodeError) : (s.answerRejected e).req = s.req := rfl
@[simp] theorem State.answerRejected_rsp (s : State) (e : DecodeError) : (s.answerRejected e).rsp = Response.illegalAnswer := rfl
@[simp] theorem State.answerRejected_turn (s : State) (e : DecodeError) : (s.answerRejected e).turn = s.turn := rfl
@[simp] theorem State.answerRejected_transport (s : State) (e : DecodeError) : (s.answerRejected e).transport = s.transport := rfl
@[simp] theorem State.answerRejected_program (s : State) (e : DecodeError) : (s.answerRejected e).program = s.program := rfl
@[simp] theorem State.answerRejected_todo (s : State) (e : DecodeError) : (s.answerRejected e).todo = s.todo := rfl
@[simp] theorem State.answerRejected_received (s : State) (e : DecodeError) : (s.answerRejected e).received = s.received := rfl
@[simp] theorem State.answerRejected_returned (s : State) (e : DecodeError) : (s.answerRejected e).returned = s.returned := rfl
@[simp] theorem State.answerRejected_calls (s : State) (e : DecodeError) : (s.answerRejected e).calls = s.calls := rfl
@[simp] theorem State.answerRejected_dev (s : State) (e : DecodeError) : (s.answerRejected e).dev = s.dev := rfl
@[simp] theorem State.answerRejected_env (s : State) (e : DecodeError) : (s.answerRejected e).env = s.env := rfl
@[simp] theorem State.answerRejected_freeIdx (s : State) (e : DecodeError) : (s.answerRejected e).freeIdx = s.freeIdx := rfl

@[simp] theorem State.handBack_params (s : State) : (s.handBack).params = s.params := rfl
@[simp] theorem State.handBack_req (s : State) : (s.handBack).req = s.req := rfl
@[simp] theorem State.handBack_rsp (s : State) : (s.handBack).rsp = s.rsp := rfl
@[simp] theorem State.handBack_turn (s : State) : (s.handBack).turn = .host := rfl
@[simp] theorem State.handBack_transport (s : State) : (s.handBack).transport = s.transport := rfl
@[simp] theorem State.handBack_program (s : State) : (s.handBack).program = s.program := rfl
@[simp] theorem State.handBack_todo (s : State) : (s.handBack).todo = s.todo := rfl
@[simp] theorem State.handBack_received (s : State) : (s.handBack).received = s.received := rfl
@[simp] theorem State.handBack_returned (s : State) : (s.handBack).returned = s.returned := rfl
@[simp] theorem State.handBack_calls (s : State) : (s.handBack).calls = s.calls := rfl
@[simp] theorem State.handBack_dev (s : State) : (s.handBack).dev = s.dev := rfl
@[simp] theorem State.handBack_env (s : State) : (s.handBack).env = s.env := rfl
@[simp] theorem State.handBack_freeIdx (s : State) : (s.handBack).freeIdx = s.freeIdx := rfl

@[simp] theorem State.presentRequest_params (s : State) (r : Request) : (s.presentRequest r).params = s.params := rfl
@[simp] theorem State.presentRequest_req (s : State) (r : Request) : (s.presentRequest r).req = r := rfl
@[simp] theorem State.presentRequest_rsp (s : State) (r : Request) : (s.presentRequest r).rsp = s.rsp := rfl
@[simp] theorem State.presentRequest_turn (s : State) (r : Request) : (s.presentRequest r).turn = .block := rfl
@[simp] theorem State.presentRequest_transport (s : State) (r : Request) : (s.presentRequest r).transport = s.transport := rfl
@[simp] theorem State.presentRequest_program (s : State) (r : Request) : (s.presentRequest r).program = s.program := rfl
@[simp] theorem State.presentRequest_todo (s : State) (r : Request) : (s.presentRequest r).todo = s.todo := rfl
@[simp] theorem State.presentRequest_received (s : State) (r : Request) : (s.presentRequest r).received = s.received := rfl
@[simp] theorem State.presentRequest_returned (s : State) (r : Request) : (s.presentRequest r).returned = s.returned := rfl
@[simp] theorem State.presentRequest_calls (s : State) (r : Request) : (s.presentRequest r).calls = s.calls := rfl
@[simp] theorem State.presentRequest_dev (s : State) (r : Request) : (s.presentRequest r).dev = s.dev := rfl
@[simp] theorem State.presentRequest_env (s : State) (r : Request) : (s.presentRequest r).env = s.env := rfl
@[simp] theorem State.presentRequest_freeIdx (s : State) (r : Request) : (s.presentRequest r).freeIdx = s.freeIdx := rfl

@[simp] theorem State.endSequence_params (s : State) (x : HostResult) : (s.endSequence x).params = s.params := rfl
@[simp] theorem State.endSequence_req (s : State) (x : HostResult) : (s.endSequence x).req = s.req := rfl
@[simp] theorem State.endSequence_rsp (s : State) (x : HostResult) : (s.endSequence x).rsp = s.rsp := rfl
@[simp] theorem State.endSequence_turn (s : State) (x : HostResult) : (s.endSequence x).turn = s.turn := rfl
@[simp] theorem State.endSequence_transport (s : State) (x : HostResult) : (s.endSequence x).transport = s.transport := rfl
@[simp] theorem State.endSequence_program (s : State) (x : HostResult) : (s.endSequence x).program = s.program := rfl
@[simp] theorem State.endSequence_todo (s : State) (x : HostResult) : (s.endSequence x).todo = [] := rfl
@[simp] theorem State.endSequence_received (s : State) (x : HostResult) : (s.endSequence x).received = s.received := rfl
@[simp] theorem State.endSequence_returned (s : State) (x : HostResult) : (s.endSequence x).returned = s.returned ++ [x] := rfl
@[simp] theorem State.endSequence_calls (s : State) (x : HostResult) : (s.endSequence x).calls = s.calls := rfl
@[simp] theorem State.endSequence_dev (s : State) (x : HostResult) : (s.endSequence x).dev = s.dev := rfl
@[simp] theorem State.endSequence_env (s : State) (x : HostResult) : (s.endSequence x).env = s.env := rfl
@[simp] theorem State.endSequence_freeIdx (s : State) (x : HostResult) : (s.endSequence x).freeIdx = s.freeIdx := rfl

@[simp] theorem State.begin_params (s : State) (op : HostOp) (rest : List HostOp) : (s.begin op rest).params = s.params := rfl
@[simp] theorem State.begin_req (s : State) (op : HostOp) (rest : List HostOp) : (s.begin op rest).req = s.req := rfl
@[simp] theorem State.begin_rsp (s : State) (op : HostOp) (rest : List HostOp) : (s.begin op rest).rsp = s.rsp := rfl
@[simp] theorem State.begin_turn (s : State) (op : HostOp) (rest : List HostOp) : (s.begin op rest).turn = s.turn := rfl
@[simp] theorem State.begin_transport (s : State) (op : HostOp) (rest : List HostOp) : (s.begin op rest).transport = s.transport := rfl
@[simp] theorem State.begin_program (s : State) (op : HostOp) (rest : List HostOp) : (s.begin op rest).program = rest := rfl
@[simp] theorem State.begin_todo (s : State) (op : HostOp) (rest : List HostOp) : (s.begin op rest).todo = op.expand := rfl
@[simp] theorem State.begin_received (s : State) (op : HostOp) (rest : List HostOp) : (s.begin op rest).received = [] := rfl
@[simp] theorem State.begin_returned (s : State) (op : HostOp) (rest : List HostOp) : (s.begin op rest).returned = s.returned := rfl
@[simp] theorem State.begin_calls (s : State) (op : HostOp) (rest : List HostOp) : (s.begin op rest).calls = s.calls := rfl
@[simp] theorem State.begin_dev (s : State) (op : HostOp) (rest : List HostOp) : (s.begin op rest).dev = s.dev := rfl
@[simp] theorem State.begin_env (s : State) (op : HostOp) (rest : List HostOp) : (s.begin op rest).env = s.env := rfl
@[simp] theorem State.begin_freeIdx (s : State) (op : HostOp) (rest : List HostOp) : (s.begin op rest).freeIdx = s.freeIdx := rfl

@[simp] theorem State.launch_params (s : State) (cs : List Host.Cell) (a : Byte) (p : List HostOp) (es : List EnvEvent) : (s.launch cs a p es).params = s.params := rfl
@[simp] theorem State.launch_req (s : State) (cs : List Host.Cell) (a : Byte) (p : List HostOp) (es : List EnvEvent) : (s.launch cs a p es).req = s.req := rfl
@[simp] theorem State.launch_rsp (s : State) (cs : List Host.Cell) (a : Byte) (p : List HostOp) (es : List EnvEvent) : (s.launch cs a p es).rsp = s.rsp := rfl
@[simp] theorem State.launch_turn (s : State) (cs : List Host.Cell) (a : Byte) (p : List HostOp) (es : List EnvEvent) : (s.launch cs a p es).turn = s.turn := rfl
@[simp] theorem State.launch_transport (s : State) (cs : List Host.Cell) (a : Byte) (p : List HostOp) (es : List EnvEvent) : (s.launch cs a p es).transport = true := rfl
@[simp] theorem State.launch_program (s : State) (cs : List Host.Cell) (a : Byte) (p : List HostOp) (es : List EnvEvent) : (s.launch cs a p es).program = p := rfl
@[simp] theorem State.launch_todo (s : State) (cs : List Host.Cell) (a : Byte) (p : List HostOp) (es : List EnvEvent) : (s.launch cs a p es).todo = s.todo := rfl
@[simp] theorem State.launch_received (s : State) (cs : List Host.Cell) (a : Byte) (p : List HostOp) (es : List EnvEvent) : (s.launch cs a p es).received = s.received := rfl
@[simp] theorem State.launch_returned (s : State) (cs : List Host.Cell) (a : Byte) (p : List HostOp) (es : List EnvEvent) : (s.launch cs a p es).returned = s.returned := rfl
@[simp] theorem State.launch_calls (s : State) (cs : List Host.Cell) (a : Byte) (p : List HostOp) (es : List EnvEvent) : (s.launch cs a p es).calls = s.calls := rfl
@[simp] theorem State.launch_dev (s : State) (cs : List Host.Cell) (a : Byte) (p : List HostOp) (es : List EnvEvent) : (s.launch cs a p es).dev = ⟨s.dev.regs.load cs, a⟩ := rfl
@[simp] theorem State.launch_env (s : State) (cs : List Host.Cell) (a : Byte) (p : List HostOp) (es : List EnvEvent) : (s.launch cs a p es).env = es := rfl
@[simp] theorem State.launch_freeIdx (s : State) (cs : List Host.Cell) (a : Byte) (p : List HostOp) (es : List EnvEvent) : (s.launch cs a p es).freeIdx = s.freeIdx := rfl

/-! Using an event up changes the script or the counter only. -/

@[simp] theorem State.dropEvent_params (s : State) : s.dropEvent.params = s.params := by unfold State.dropEvent; split <;> rfl
@[simp] theorem State.dropEvent_req (s : State) : s.dropEvent.req = s.req := by unfold State.dropEvent; split <;> rfl
@[simp] theorem State.dropEvent_rsp (s : State) : s.dropEvent.rsp = s.rsp := by unfold State.dropEvent; split <;> rfl
@[simp] theorem State.dropEvent_turn (s : State) : s.dropEvent.turn = s.turn := by unfold State.dropEvent; split <;> rfl
@[simp] theorem State.dropEvent_transport (s : State) : s.dropEvent.transport = s.transport := by unfold State.dropEvent; split <;> rfl
@[simp] theorem State.dropEvent_program (s : State) : s.dropEvent.program = s.program := by unfold State.dropEvent; split <;> rfl
@[simp] theorem State.dropEvent_todo (s : State) : s.dropEvent.todo = s.todo := by unfold State.dropEvent; split <;> rfl
@[simp] theorem State.dropEvent_received (s : State) : s.dropEvent.received = s.received := by unfold State.dropEvent; split <;> rfl
@[simp] theorem State.dropEvent_returned (s : State) : s.dropEvent.returned = s.returned := by unfold State.dropEvent; split <;> rfl
@[simp] theorem State.dropEvent_calls (s : State) : s.dropEvent.calls = s.calls := by unfold State.dropEvent; split <;> rfl
@[simp] theorem State.dropEvent_dev (s : State) : s.dropEvent.dev = s.dev := by unfold State.dropEvent; split <;> rfl

@[simp] theorem State.event_of_env_cons (s : State) {e : EnvEvent} {es : List EnvEvent} (h : s.env = e :: es) : s.event = e := by
  simp [State.event, h]

@[simp] theorem State.dropEvent_of_env_cons (s : State) {e : EnvEvent} {es : List EnvEvent} (h : s.env = e :: es) :
    s.dropEvent = { s with env := es } := by
  simp [State.dropEvent, h]

/-! The state a `send` leads to. -/

@[simp] theorem State.sent_params (s : State) (p : Bool) (buf : List Byte) : (s.sent p buf).params = s.params := by simp [State.sent]
@[simp] theorem State.sent_req (s : State) (p : Bool) (buf : List Byte) : (s.sent p buf).req = s.req := by simp [State.sent]
@[simp] theorem State.sent_rsp (s : State) (p : Bool) (buf : List Byte) : (s.sent p buf).rsp = s.rsp := by simp [State.sent]
@[simp] theorem State.sent_turn (s : State) (p : Bool) (buf : List Byte) : (s.sent p buf).turn = s.turn := by simp [State.sent]
@[simp] theorem State.sent_transport (s : State) (p : Bool) (buf : List Byte) : (s.sent p buf).transport = s.transport := by simp [State.sent]
@[simp] theorem State.sent_program (s : State) (p : Bool) (buf : List Byte) : (s.sent p buf).program = s.program := by simp [State.sent]
@[simp] theorem State.sent_todo (s : State) (p : Bool) (buf : List Byte) : (s.sent p buf).todo = s.todo := by simp [State.sent]
@[simp] theorem State.sent_received (s : State) (p : Bool) (buf : List Byte) : (s.sent p buf).received = s.received := by simp [State.sent]
@[simp] theorem State.sent_returned (s : State) (p : Bool) (buf : List Byte) : (s.sent p buf).returned = s.returned := by simp [State.sent]
@[simp] theorem State.sent_calls (s : State) (p : Bool) (buf : List Byte) : (s.sent p buf).calls = s.calls ++ [.send devAddr buf] := rfl
@[simp] theorem State.sent_dev (s : State) (p : Bool) (buf : List Byte) : (s.sent p buf).dev = ((s.dev.tick s.event.before).afterSend s.params s.event p buf).tick s.event.after := rfl
@[simp] theorem State.sent_env (s : State) (p : Bool) (buf : List Byte) : (s.sent p buf).env = s.dropEvent.env := rfl
@[simp] theorem State.sent_freeIdx (s : State) (p : Bool) (buf : List Byte) : (s.sent p buf).freeIdx = s.dropEvent.freeIdx := rfl

/-! After a call: only a failure under `TRANSPORT_FALLIBLE` touches anything. -/

@[simp] theorem State.afterCall_params (s : State) (o : CallOutcome) : (s.afterCall o).params = s.params := by
  unfold State.afterCall; split <;> rfl
@[simp] theorem State.afterCall_req (s : State) (o : CallOutcome) : (s.afterCall o).req = s.req := by
  unfold State.afterCall; split <;> rfl
@[simp] theorem State.afterCall_rsp (s : State) (o : CallOutcome) : (s.afterCall o).rsp = s.rsp := by
  unfold State.afterCall; split <;> rfl
@[simp] theorem State.afterCall_turn (s : State) (o : CallOutcome) : (s.afterCall o).turn = s.turn := by
  unfold State.afterCall; split <;> rfl
@[simp] theorem State.afterCall_transport (s : State) (o : CallOutcome) : (s.afterCall o).transport = s.transport := by
  unfold State.afterCall; split <;> rfl
@[simp] theorem State.afterCall_program (s : State) (o : CallOutcome) : (s.afterCall o).program = s.program := by
  unfold State.afterCall; split <;> rfl
@[simp] theorem State.afterCall_received (s : State) (o : CallOutcome) : (s.afterCall o).received = s.received := by
  unfold State.afterCall; split <;> rfl
@[simp] theorem State.afterCall_calls (s : State) (o : CallOutcome) : (s.afterCall o).calls = s.calls := by
  unfold State.afterCall; split <;> rfl
@[simp] theorem State.afterCall_dev (s : State) (o : CallOutcome) : (s.afterCall o).dev = s.dev := by
  unfold State.afterCall; split <;> rfl
@[simp] theorem State.afterCall_env (s : State) (o : CallOutcome) : (s.afterCall o).env = s.env := by
  unfold State.afterCall; split <;> rfl
@[simp] theorem State.afterCall_freeIdx (s : State) (o : CallOutcome) : (s.afterCall o).freeIdx = s.freeIdx := by
  unfold State.afterCall; split <;> rfl

theorem State.afterCall_of_returns (s : State) : s.afterCall .returns = s := by simp [State.afterCall]

theorem State.afterCall_of_not_fallible (s : State) (o : CallOutcome) (h : s.params.transportFallible = false) :
    s.afterCall o = s := by simp [State.afterCall, h]

theorem State.afterCall_of_fallible (s : State) (h : s.params.transportFallible = true) :
    s.afterCall .fails = s.endSequence .transportError := by simp [State.afterCall, h]

end Sys2Proof.Machine
end

