-- ==== Sys2Proof/Laws/Memory.lean ====
section
/-! SUPPORT. The laws of the device's memory: a read after a write, and that every memory operation keeps the canonical
form. -/

namespace Sys2Proof.Machine

@[simp] theorem Memory.read_nil (k : Nat) : Memory.read [] k = none := rfl

/-- A read at the written address gives the written byte. -/
@[simp] theorem Memory.read_write_same (m : Memory) (k : Nat) (v : Byte) : (m.write k v).read k = some v := by
  induction m with
  | nil => simp [Memory.write, Memory.read]
  | cons c m ih =>
    obtain ⟨a, b⟩ := c
    simp only [Memory.write]
    split
    · simp [Memory.read]
    · split
      · simp [Memory.read]
      · simp [Memory.read, *]

/-- A write leaves every other address alone. -/
theorem Memory.read_write_other (m : Memory) {k j : Nat} (v : Byte) (h : j ≠ k) : (m.write k v).read j = m.read j := by
  induction m with
  | nil => simp [Memory.write, Memory.read, h]
  | cons c m ih =>
    obtain ⟨a, b⟩ := c
    simp only [Memory.write]
    split
    · simp [Memory.read, h]
    · split
      · next h₂ => simp [Memory.read, h, ← h₂]
      · simp [Memory.read, ih]

theorem Memory.risingFrom_mono {lo lo' : Nat} (h : lo' ≤ lo) (m : Memory) (hm : Memory.risingFrom lo m = true) :
    Memory.risingFrom lo' m = true := by
  cases m with
  | nil => rfl
  | cons c m => obtain ⟨a, b⟩ := c; simp only [Memory.risingFrom, Bool.and_eq_true, decide_eq_true_eq] at *; exact ⟨⟨by omega, hm.1.2⟩, hm.2⟩

theorem Memory.risingFrom_write (m : Memory) (k : Nat) (v : Byte) (hk : k < 256) :
    ∀ lo, lo ≤ k → Memory.risingFrom lo m = true → Memory.risingFrom lo (m.write k v) = true := by
  induction m with
  | nil => intro lo hlo _; simp [Memory.write, Memory.risingFrom, hlo, hk]
  | cons c m ih =>
    obtain ⟨a, b⟩ := c
    intro lo hlo h
    simp only [Memory.risingFrom, Bool.and_eq_true, decide_eq_true_eq] at h
    simp only [Memory.write]
    split
    · simp only [Memory.risingFrom, Bool.and_eq_true, decide_eq_true_eq]
      exact ⟨⟨hlo, hk⟩, ⟨by omega, h.1.2⟩, h.2⟩
    · split
      · next h₂ => subst h₂; simp [Memory.risingFrom, hlo, hk, h.2]
      · simp only [Memory.risingFrom, Bool.and_eq_true, decide_eq_true_eq]
        exact ⟨h.1, ih _ (by omega) h.2⟩

/-- A write below 256 keeps the canonical form. -/
theorem Memory.wf_write (m : Memory) {k : Nat} (v : Byte) (hk : k < 256) (h : m.wf = true) : (m.write k v).wf = true :=
  Memory.risingFrom_write m k v hk 0 (Nat.zero_le _) h

@[simp] theorem Memory.byte_nil (k : Nat) : Memory.byte [] k = Config.powerOn k := rfl

/-- A listed register holds its byte. -/
theorem Memory.byte_of_read {m : Memory} {k : Nat} {b : Byte} (h : m.read k = some b) : m.byte k = b := by
  simp [Memory.byte, h]

/-- Registers that are listed alike hold the same. -/
theorem Memory.byte_congr {m m' : Memory} {k : Nat} (h : m.read k = m'.read k) : m.byte k = m'.byte k := by
  simp only [Memory.byte, h]

/-- The written register holds the written byte. -/
@[simp] theorem Memory.byte_write_same (m : Memory) (k : Nat) (v : Byte) : (m.write k v).byte k = v :=
  Memory.byte_of_read (Memory.read_write_same m k v)

/-- A write leaves what every other register holds. -/
theorem Memory.byte_write_other (m : Memory) {k j : Nat} (v : Byte) (h : j ≠ k) : (m.write k v).byte j = m.byte j :=
  Memory.byte_congr (Memory.read_write_other m v h)

@[simp] theorem Memory.load_nil (m : Memory) : m.load [] = m := rfl

/-- Any bytes loaded keep the canonical form. -/
theorem Memory.wf_load (cs : List Host.Cell) : ∀ m : Memory, m.wf = true → (m.load cs).wf = true := by
  induction cs with
  | nil => exact fun _ h => h
  | cons c cs ih =>
    intro m h
    refine ih _ ?_
    split
    · next hc => exact Memory.wf_write m _ hc h
    · exact h

/-- Bytes loaded elsewhere leave a register alone. -/
theorem Memory.read_load_other (cs : List Host.Cell) {a : Nat} (ha : ∀ c ∈ cs, c.1 ≠ a) :
    ∀ m : Memory, (m.load cs).read a = m.read a := by
  induction cs with
  | nil => exact fun _ => rfl
  | cons c cs ih =>
    intro m
    refine (ih (fun d hd => ha d (List.mem_cons_of_mem _ hd)) _).trans ?_
    split
    · exact Memory.read_write_other m _ (ha c List.mem_cons_self).symm
    · rfl

/-- The device's own changes keep the canonical form. -/
theorem Memory.wf_tick (cs : List Host.Cell) (m : Memory) (h : m.wf = true) : (m.tick cs).wf = true := Memory.wf_load _ m h

/-- The device's own changes leave every other register alone. -/
theorem Memory.read_tick_other (cs : List Host.Cell) {a : Nat} (ha : 6 < a) (m : Memory) :
    (m.tick cs).read a = m.read a := by
  refine Memory.read_load_other _ (fun c hc => ?_) m
  have := (List.mem_filter.1 hc).2
  simp only [isTimeRegister, regYear] at this
  simp at this
  omega

@[simp] theorem Memory.tick_nil (m : Memory) : m.tick [] = m := rfl

/-- Storing a payload keeps the canonical form while its addresses are below 256. -/
theorem Memory.wf_storeFrom (vs : List Byte) : ∀ (m : Memory) (a : Nat), a + vs.length ≤ 256 → m.wf = true →
    (m.storeFrom a vs).wf = true := by
  induction vs with
  | nil => exact fun _ _ _ h => h
  | cons v vs ih =>
    intro m a ha h
    simp only [List.length_cons] at ha
    exact ih _ _ (by omega) (Memory.wf_write m v (by omega) h)

/-- Storing a payload leaves every address outside it alone. -/
theorem Memory.read_storeFrom_other (vs : List Byte) : ∀ (m : Memory) (a j : Nat), (j < a ∨ a + vs.length ≤ j) →
    (m.storeFrom a vs).read j = m.read j := by
  induction vs with
  | nil => exact fun _ _ _ _ => rfl
  | cons v vs ih =>
    intro m a j h
    simp only [List.length_cons] at h
    refine (ih (m.write a v) (a + 1) j (by omega)).trans (Memory.read_write_other m v (by omega))

/-- Payload byte `i` is what the register at `a + i` then holds. -/
theorem Memory.read_storeFrom (vs : List Byte) : ∀ (m : Memory) (a i : Nat), i < vs.length →
    (m.storeFrom a vs).read (a + i) = vs[i]? := by
  induction vs with
  | nil => intro _ _ _ h; simp at h
  | cons v vs ih =>
    intro m a i h
    cases i with
    | zero =>
      refine (Memory.read_storeFrom_other vs (m.write a v) (a + 1) (a + 0) (by omega)).trans ?_
      simp
    | succ i =>
      have := ih (m.write a v) (a + 1) i (by simpa using h)
      rw [show a + (i + 1) = a + 1 + i by omega]
      simpa [Memory.storeFrom] using this

@[simp] theorem Device.tick_nil (d : Device) : d.tick [] = d := rfl
@[simp] theorem Device.tick_ptr (d : Device) (cs : List Host.Cell) : (d.tick cs).ptr = d.ptr := rfl
@[simp] theorem Device.tick_regs (d : Device) (cs : List Host.Cell) : (d.tick cs).regs = d.regs.tick cs := rfl

/-- A transfer that stays among consecutive registers stays inside the address space. -/
theorem sameRegion_lt {p : Params} {a b : Nat} (h : p.sameRegion a b = true) : b < 256 := by
  simp only [Params.sameRegion, Bool.or_eq_true, Bool.and_eq_true] at h
  rcases h with h | h
  · have := h.2; simp [isRegister, regCtrl] at this; omega
  · have := h.2; simp [Params.inRam] at this; have := p.ramLast.isLt; omega

/-- A frame keeps the canonical form. -/
theorem Device.wf_takeFrame (p : Params) (e : EnvEvent) (d : Device) (buf : List Byte) (h : d.regs.wf = true) :
    (d.takeFrame p e buf).regs.wf = true := by
  match buf with
  | [] => exact Memory.wf_load _ _ h
  | [_] => exact h
  | a :: v :: vs =>
    simp only [Device.takeFrame]
    split
    · next hr =>
      have := sameRegion_lt hr
      exact Memory.wf_storeFrom (v :: vs) d.regs a.toNat (by simp; omega) h
    · exact Memory.wf_load _ _ h

/-- A send keeps the canonical form, however it ends. -/
theorem Device.wf_afterSend (p : Params) (e : EnvEvent) (pa : Bool) (buf : List Byte) (d : Device) (h : d.regs.wf = true) :
    (d.afterSend p e pa buf).regs.wf = true := by
  unfold Device.afterSend
  split
  · exact Device.wf_takeFrame p e d buf h
  · exact Memory.wf_load _ _ h
  · exact Memory.wf_load _ _ h
  · exact h
  · exact h

/-- The bytes of a receive keep the canonical form. -/
theorem State.wf_takeBytes (raw ok : Bool) (start n : Nat) : ∀ (i : Nat) (s : State), s.dev.regs.wf = true →
    (State.takeBytes raw ok start n i s).2.dev.regs.wf = true := by
  induction n with
  | zero => exact fun _ _ h => h
  | succ n ih => exact fun i s h => ih (i + 1) _ (Memory.wf_tick _ _ h)

/-- A receive delivers as many bytes as were asked for. -/
@[simp] theorem State.length_takeBytes (raw ok : Bool) (start n : Nat) : ∀ (i : Nat) (s : State),
    (State.takeBytes raw ok start n i s).1.length = n := by
  induction n with
  | zero => exact fun _ _ => rfl
  | succ n ih => intro i s; simp [State.takeBytes, ih]

end Sys2Proof.Machine
end

