-- ==== Sys2Proof/Laws/Operands.lean ====
section
/-! SUPPORT. One lemma per lane function: its value as a number, and the codes it knows. -/

namespace Sys2Proof.Machine

/-- `b2bcd` as a number (R130, R133). -/
theorem b2bcd_toNat (v : Byte) : (b2bcd v).toNat = v.toNat / 10 % 16 * 16 + v.toNat % 10 := by
  simp only [b2bcd, BitVec.toNat_ofNat]; omega

/-- `bcd2b` as a number: no truncation occurs (R131). -/
theorem bcd2b_toNat (b : Byte) : (bcd2b b).toNat = b.toNat / 16 * 10 + b.toNat % 16 := by
  have := b.isLt
  simp only [bcd2b, highNibble, lowNibble, BitVec.toNat_ofNat]; omega

theorem bcd2b_le (b : Byte) : (bcd2b b).toNat ≤ 165 := by
  have := b.isLt
  rw [bcd2b_toNat]; omega

@[simp] theorem formatOfCode_h24 : formatOfCode 0b00#2 = some .h24 := rfl
@[simp] theorem formatOfCode_reserved : formatOfCode 0b01#2 = none := rfl
@[simp] theorem formatOfCode_h12am : formatOfCode 0b10#2 = some .h12am := rfl
@[simp] theorem formatOfCode_h12pm : formatOfCode 0b11#2 = some .h12pm := rfl

/-- The four codes (R98). -/
theorem format_code_cases (c : BitVec 2) : c = 0b01#2 ∨ c = 0b00#2 ∨ c = 0b10#2 ∨ c = 0b11#2 := by
  revert c; decide

/-- A format's code gives the format back (R98: total in both directions). -/
@[simp] theorem formatOfCode_formatCode (f : Format) : formatOfCode (formatCode f) = some f := by cases f <;> rfl

/-- A mode's select value is legal or reserved (R99). -/
theorem mode_select_cases (sel : Byte) :
    (sel.toNat ≤ 5 ∧ ∃ m, modeOfSelect sel = some m) ∨ (5 < sel.toNat ∧ modeOfSelect sel = none) := by
  simp only [← Option.isSome_iff_exists]
  revert sel; decide

end Sys2Proof.Machine
end

