-- ==== Sys2Proof/Laws/Ops.lean ====
section
/-! SUPPORT. One lemma per shared operation that says everything it can do; the later proofs cite these instead of unfolding
the operations. -/

namespace Sys2Proof.Machine

/-! ### Who moves -/

theorem State.mover_of_block {s : State} (h : s.turn = .block) : s.mover = .block := by simp [State.mover, h]

theorem State.mover_of_todo {s : State} {a : HostAct} {more : List HostAct} (ht : s.turn = .host)
    (h : s.todo = a :: more) : s.mover = .host := by
  simp [State.mover, State.idle, ht, h]

theorem State.mover_of_program {s : State} {op : HostOp} {rest : List HostOp} (ht : s.turn = .host)
    (h : s.program = op :: rest) : s.mover = .host := by
  simp [State.mover, State.idle, ht, h]

theorem State.mover_of_idle {s : State} (h : s.todo = []) (h' : s.program = []) : s.mover = .block := by
  cases ht : s.turn <;> simp [State.mover, State.idle, ht, h, h']

/-! ### The block -/

/-- A meaning answers with its operation's response, and with nothing else. -/
theorem exec_eq_respond (i : Instr) (s : State) : exec i s = .next (s.respond (answerOf i)) := by cases i <;> rfl

/-- The block's move, whatever the word on its wires. -/
theorem step_of_block {s : State} (h : s.mover = .block) :
    step s = .next (s.handBack.respond (codecResponse s.fetch)) := by
  simp only [step, h, codecResponse]
  cases decode s.fetch with
  | instr i => exact exec_eq_respond i _
  | rejected e => rfl

/-- The host's move. -/
theorem step_of_host {s : State} (h : s.mover = .host) : step s = s.hostMove := by simp only [step, h]

theorem hostMove_of_todo {s : State} {a : HostAct} {more : List HostAct} (h : s.todo = a :: more) :
    s.hostMove = a.run { s with todo := more } := by
  simp only [State.hostMove, h]

theorem hostMove_of_program {s : State} {op : HostOp} {rest : List HostOp} (h : s.todo = [])
    (h' : s.program = op :: rest) : s.hostMove = .next (s.begin op rest) := by
  simp only [State.hostMove, h, h']

/-! ### The transport's calls -/

/-- A send, by the outcome of its event. -/
theorem send_of_ends {s : State} {o : CallOutcome} (pa : Bool) (buf : List Byte) (ht : s.transport = true)
    (ho : s.event.outcome = o) (hh : o ≠ .hangs) : s.send pa buf = .next ((s.sent pa buf).afterCall o) := by
  cases o <;> simp_all [State.send]

/-- A receive, by the outcome of its event. -/
theorem receive_of_ends {s : State} {o : CallOutcome} (raw : Bool) (n : Nat) (ht : s.transport = true)
    (ho : s.event.outcome = o) (hh : o ≠ .hangs) :
    s.receive raw n = .next ((s.gotBytes raw n (decide (o = .returns))).afterCall o) := by
  cases o <;> simp_all [State.receive]

/-- Everything a send can do. -/
theorem send_cases (s : State) (pa : Bool) (buf : List Byte) :
    (s.transport = false ∧ s.send pa buf = .fault .noTransport) ∨
    (s.transport = true ∧ s.event.outcome = .hangs ∧ s.send pa buf = .fault .transportHang) ∨
    (s.transport = true ∧ s.event.outcome ≠ .hangs ∧
      s.send pa buf = .next ((s.sent pa buf).afterCall s.event.outcome)) := by
  cases ht : s.transport
  · simp [State.send, ht]
  · by_cases ho : s.event.outcome = .hangs
    · simp [State.send, ht, ho]
    · exact .inr (.inr ⟨rfl, ho, send_of_ends pa buf ht rfl ho⟩)

/-- Everything a receive can do. -/
theorem receive_cases (s : State) (raw : Bool) (n : Nat) :
    (s.transport = false ∧ s.receive raw n = .fault .noTransport) ∨
    (s.transport = true ∧ s.event.outcome = .hangs ∧ s.receive raw n = .fault .transportHang) ∨
    (s.transport = true ∧ s.event.outcome ≠ .hangs ∧
      s.receive raw n = .next ((s.gotBytes raw n (decide (s.event.outcome = .returns))).afterCall s.event.outcome)) := by
  cases ht : s.transport
  · simp [State.receive, ht]
  · by_cases ho : s.event.outcome = .hangs
    · simp [State.receive, ht, ho]
    · exact .inr (.inr ⟨rfl, ho, receive_of_ends raw n ht rfl ho⟩)

/-! ### The bytes of a receive touch the device's registers and the events only -/

/-- What taking bytes leaves alone. -/
theorem takeBytes_frame (raw ok : Bool) (start n : Nat) : ∀ (i : Nat) (s : State),
    let t := (State.takeBytes raw ok start n i s).2
    t.params = s.params ∧ t.req = s.req ∧ t.rsp = s.rsp ∧ t.turn = s.turn ∧ t.transport = s.transport ∧
    t.program = s.program ∧ t.todo = s.todo ∧ t.received = s.received ∧ t.returned = s.returned ∧ t.calls = s.calls ∧
    t.dev.ptr = s.dev.ptr := by
  induction n with
  | zero => intro i s; simp [State.takeBytes]
  | succ n ih =>
    intro i s
    have h := ih (i + 1) { s.dropEvent with dev := s.dev.tick s.event.before }
    simpa [State.takeBytes] using h

/-- Taking bytes changes no register outside 0x00 to 0x06. -/
theorem takeBytes_read_other (raw ok : Bool) (start n : Nat) {a : Nat} (ha : 6 < a) : ∀ (i : Nat) (s : State),
    (State.takeBytes raw ok start n i s).2.dev.regs.read a = s.dev.regs.read a := by
  induction n with
  | zero => exact fun _ _ => rfl
  | succ n ih =>
    intro i s
    exact (ih (i + 1) _).trans (Memory.read_tick_other _ ha _)

/-- What a receive that ends leaves alone. -/
theorem gotBytes_frame (s : State) (raw : Bool) (n : Nat) (ok : Bool) :
    let t := s.gotBytes raw n ok
    t.params = s.params ∧ t.req = s.req ∧ t.rsp = s.rsp ∧ t.turn = s.turn ∧ t.transport = s.transport ∧
    t.program = s.program ∧ t.todo = s.todo ∧ t.returned = s.returned ∧ t.received.length = n ∧
    t.calls = s.calls ++ [.receive devAddr n t.received] := by
  obtain ⟨h₁, h₂, h₃, h₄, h₅, h₆, h₇, -, h₉, -, -⟩ :=
    takeBytes_frame raw ok s.dev.ptr.toNat n 0 { s.dropEvent with dev := s.dev.tick s.event.before }
  exact ⟨h₁.trans (by simp), h₂.trans (by simp), h₃.trans (by simp), h₄.trans (by simp), h₅.trans (by simp),
    h₆.trans (by simp), h₇.trans (by simp), h₉.trans (by simp), State.length_takeBytes _ _ _ _ _ _, rfl⟩

/-! ### The device's pointer and content -/

/-- Where the transfer reaches the pointer is arithmetic. -/
theorem pointerAfter_inside {p : Params} (e : EnvEvent) {raw : Bool} {start n : Nat} (h : p.reaches raw start (start + n) = true) :
    pointerAfter p e raw start n = BitVec.ofNat 8 (start + n) := by simp [pointerAfter, h]

/-- Where the transfer reaches a register, a read returns what the register holds. -/
theorem content_inside {p : Params} (e : EnvEvent) {d : Device} {raw : Bool} {start a : Nat} (h : p.reaches raw start a = true) :
    d.content p e raw start a = d.regs.byte a := by simp [Device.content, h]

/-! ### An action's call, by the buffer it sends -/

/-- Whether a buffer goes out with no address byte in front (R202). -/
def HostAct.payloadAlone (a : HostAct) : Bool := match a with | .payload _ => true | _ => false

/-- An action that sends a buffer is that send. -/
theorem run_of_sends {s : State} {a : HostAct} {buf : List Byte} (h : a.sends s.rsp = some buf) :
    a.run s = s.send a.payloadAlone buf := by
  cases a <;> simp_all [HostAct.sends, HostAct.run, HostAct.payloadAlone, State.writeImage, State.writeImageIfRequested]

/-! ### Everything an action and a step can do -/

/-- What became of a state `s` by one action: a call was made (`e` is its event), a request was put on the wires, the sequence
ended, or nothing happened. -/
def ActionLeads (s t : State) : Prop :=
  (s.transport = true ∧ s.event.outcome ≠ .hangs ∧
    ((∃ pa buf, t = (s.sent pa buf).afterCall s.event.outcome) ∨
      ∃ raw n, t = (s.gotBytes raw n (decide (s.event.outcome = .returns))).afterCall s.event.outcome)) ∨
  (∃ r, t = s.presentRequest r) ∨ (∃ x, t = s.endSequence x) ∨ t = s

theorem actionLeads_of_send {s t : State} {pa : Bool} {buf : List Byte} (h : s.send pa buf = .next t) : ActionLeads s t := by
  rcases send_cases s pa buf with ⟨_, h'⟩ | ⟨_, _, h'⟩ | ⟨ht, ho, h'⟩ <;> rw [h'] at h <;> cases h
  exact .inl ⟨ht, ho, .inl ⟨pa, buf, rfl⟩⟩

theorem actionLeads_of_receive {s t : State} {raw : Bool} {n : Nat} (h : s.receive raw n = .next t) : ActionLeads s t := by
  rcases receive_cases s raw n with ⟨_, h'⟩ | ⟨_, _, h'⟩ | ⟨ht, ho, h'⟩ <;> rw [h'] at h <;> cases h
  exact .inl ⟨ht, ho, .inr ⟨raw, n, rfl⟩⟩

/-- Everything an action can do when it answers a next state. -/
theorem run_cases {s t : State} {a : HostAct} (h : a.run s = .next t) : ActionLeads s t := by
  cases a <;> simp only [HostAct.run] at h
  case pointer | payload => exact actionLeads_of_send h
  case receive => exact actionLeads_of_receive h
  case present | presentReceived => cases h; exact .inr (.inl ⟨_, rfl⟩)
  case writeImage =>
    unfold State.writeImage at h
    split at h
    · cases h; exact .inr (.inr (.inl ⟨_, rfl⟩))
    · exact actionLeads_of_send h
  case writeImageIfRequested =>
    unfold State.writeImageIfRequested at h
    split at h
    · cases h; exact .inr (.inr (.inl ⟨_, rfl⟩))
    · split at h
      · exact actionLeads_of_send h
      · cases h; exact .inr (.inr (.inr rfl))
  all_goals cases h; exact .inr (.inr (.inl ⟨_, rfl⟩))

/-- Everything a step can do when it answers a next state: the block answered, or the host did an action or began a sequence. -/
theorem step_cases {s t : State} (h : step s = .next t) :
    (s.mover = .block ∧ t = s.handBack.respond (codecResponse s.fetch)) ∨
    (s.mover = .host ∧ ∃ a more, s.todo = a :: more ∧ a.run { s with todo := more } = .next t ∧
      ActionLeads { s with todo := more } t) ∨
    (s.mover = .host ∧ ∃ op rest, s.todo = [] ∧ s.program = op :: rest ∧ t = s.begin op rest) := by
  cases hm : s.mover with
  | block => rw [step_of_block hm] at h; cases h; exact .inl ⟨rfl, rfl⟩
  | host =>
    rw [step_of_host hm] at h
    cases hd : s.todo with
    | cons a more => rw [hostMove_of_todo hd] at h; exact .inr (.inl ⟨rfl, a, more, rfl, h, run_cases h⟩)
    | nil =>
      cases hp : s.program with
      | nil => rw [State.mover_of_idle hd hp] at hm; cases hm
      | cons op rest =>
        rw [hostMove_of_program hd hp] at h
        cases h
        exact .inr (.inr ⟨rfl, op, rest, rfl, rfl, rfl⟩)

/-! ### The one illegal answer -/

theorem illegalAnswer_word : Response.illegalAnswer.word = 0x800000000000#48 := by decide

end Sys2Proof.Machine
end

