-- ==== Sys2Proof/Laws/PerInstr.lean ====
section
/-! SUPPORT. Statements made of every instruction, one lemma per constructor. -/

namespace Sys2Proof.Laws.UnnamedFieldsZero

/-- R107: the notation puts 0 in every request field the operation's view does not name. -/
def Statement : Instr → Prop
  | .b2bcd v => let r := encodeRequest (.b2bcd v); r.fmt = 0 ∧ r.d1 = 0 ∧ r.d2 = 0 ∧ r.d3 = 0
  | .bcd2b b => let r := encodeRequest (.bcd2b b); r.fmt = 0 ∧ r.d1 = 0 ∧ r.d2 = 0 ∧ r.d3 = 0
  | .enct sec min hr fmt => (encodeRequest (.enct sec min hr fmt)).d3 = 0
  | .dect b0 b1 b2 => let r := encodeRequest (.dect b0 b1 b2); r.fmt = 0 ∧ r.d3 = 0
  | .encd day date month year => (encodeRequest (.encd day date month year)).fmt = 0
  | .decd b0 b1 b2 b3 => (encodeRequest (.decd b0 b1 b2 b3)).fmt = 0
  | .encsqw mode => let r := encodeRequest (.encsqw mode); r.fmt = 0 ∧ r.d1 = 0 ∧ r.d2 = 0 ∧ r.d3 = 0
  | .chkhalt b => let r := encodeRequest (.chkhalt b); r.fmt = 0 ∧ r.d1 = 0 ∧ r.d2 = 0 ∧ r.d3 = 0

theorem b2bcd (v : Byte) : Statement (.b2bcd v) := ⟨rfl, rfl, rfl, rfl⟩
theorem bcd2b (b : Byte) : Statement (.bcd2b b) := ⟨rfl, rfl, rfl, rfl⟩
theorem enct (seconds minutes hours : Byte) (fmt : BitVec 2) : Statement (.enct seconds minutes hours fmt) := rfl
theorem dect (b0 b1 b2 : Byte) : Statement (.dect b0 b1 b2) := ⟨rfl, rfl⟩
theorem encd (day date month year : Byte) : Statement (.encd day date month year) := rfl
theorem decd (b0 b1 b2 b3 : Byte) : Statement (.decd b0 b1 b2 b3) := rfl
theorem encsqw (mode : Byte) : Statement (.encsqw mode) := ⟨rfl, rfl, rfl, rfl⟩
theorem chkhalt (b : Byte) : Statement (.chkhalt b) := ⟨rfl, rfl, rfl, rfl⟩

end Sys2Proof.Laws.UnnamedFieldsZero
end

