-- ==== Sys2Proof/Laws/Run.lean ====
section
/-! SUPPORT. Runs one step at a time: what the next step is, from the fields that decide it. -/

namespace Sys2Proof.Machine

@[simp] theorem run_zero (s : State) : run 0 s = .next s := rfl

/-- A run of one more step. -/
theorem run_succ {s t : State} (n : Nat) (h : step s = .next t) : run (n + 1) s = run n t := by
  have h' : Sys2Proof.core.step s = .next t := h
  unfold run
  simp only [Host.Core.run, h']
  rfl

/-- The host begins its next sequence. -/
theorem step_begins {s : State} {op : HostOp} {rest : List HostOp} (h : s.Before op rest) :
    step s = .next (s.begin op rest) := by
  rw [step_of_host (State.mover_of_program h.turn h.program), hostMove_of_program h.todo h.program]

/-- The host does the next action of its sequence. -/
theorem step_acts {s : State} {a : HostAct} {more : List HostAct} (h : s.turn = .host) (h' : s.todo = a :: more) :
    step s = a.run { s with todo := more } := by
  rw [step_of_host (State.mover_of_todo h h'), hostMove_of_todo h']

/-- The block answers the request that was presented. -/
theorem step_answers {s : State} (h : s.turn = .block) :
    step s = .next (s.handBack.respond (codecResponse s.req.word)) :=
  step_of_block (State.mover_of_block h)

/-- The event depends on the script and the counter alone. -/
theorem State.event_congr {s t : State} (h : t.env = s.env) (h' : t.freeIdx = s.freeIdx) : t.event = s.event := by
  simp only [State.event, h, h']

/-- What a returning call leaves of a premise about the events to come. -/
theorem State.Returning.head {s : State} {n : Nat} (h : s.Returning (n + 1)) :
    s.event.outcome = .returns ∧ s.dropEvent.Returning n := by
  obtain ⟨h₁, h₂⟩ := h
  cases he : s.env with
  | nil => simp [he] at h₁
  | cons e es =>
    simp only [he, List.length_cons, Nat.add_le_add_iff_right, List.take_succ_cons, List.mem_cons, forall_eq_or_imp] at h₁ h₂
    simp only [State.event, he, State.Returning, State.dropEvent]
    exact ⟨h₂.1, h₁, h₂.2⟩

/-- The same of a quiet environment. -/
theorem State.Quiet.head {s : State} {n : Nat} (h : s.Quiet (n + 1)) :
    s.event.outcome = .returns ∧ s.event.Still ∧ s.dropEvent.Quiet n := by
  obtain ⟨h₁, h₂⟩ := h
  cases he : s.env with
  | nil => simp [he] at h₁
  | cons e es =>
    simp only [he, List.length_cons, Nat.add_le_add_iff_right, List.take_succ_cons, List.mem_cons, forall_eq_or_imp] at h₁ h₂
    simp only [State.event, he, State.Quiet, State.dropEvent]
    exact ⟨h₂.1.1, h₂.1.2, h₁, h₂.2⟩

/-- A quiet environment is one in which every call returns. -/
theorem State.Quiet.returning {s : State} {n : Nat} (h : s.Quiet n) : s.Returning n := ⟨h.1, fun e he => (h.2 e he).1⟩

end Sys2Proof.Machine
end

