-- ==== Sys2Proof/Tests/Slice0.lean ====
section
/-! SUPPORT. Tests against the spec's own words and worked vectors (`95_test_vectors.md`), the smoke test of WellFormed, and
for every statement with hypotheses a concrete case that meets them all. -/

namespace Sys2Proof.Tests

open Sys2Proof Sys2Proof.Machine

/-! ### WellFormed: one ill-formed term for each check -/

theorem test_reserved_format_is_ill_formed : (Instr.enct 0 0 0 0b01#2).wellFormed = false := by decide
theorem test_reserved_mode_is_ill_formed :
    (Instr.encsqw 6).wellFormed = false ∧ (Instr.encsqw 0xFF).wellFormed = false := by decide
theorem test_other_formats_and_modes_are_well_formed :
    (Instr.enct 200 200 200 0b00#2).wellFormed = true ∧ (Instr.enct 0 0 0 0b10#2).wellFormed = true ∧
    (Instr.enct 0 0 0 0b11#2).wellFormed = true ∧ (Instr.encsqw 5).wellFormed = true := by decide

/-! ### Decoding: words laid out from R90 and R95, fields from the top down: op, fmt, d[3], d[2], d[1], d[0] -/

theorem test_decode_b2bcd :
    decode 0b0000_11_11111111_11111111_11111111_00101101#38 = .instr (.b2bcd 45) := by decide
theorem test_decode_bcd2b :
    decode 0b0001_00_00000000_00000000_00000000_01011001#38 = .instr (.bcd2b 0x59) := by decide
theorem test_decode_enct :
    decode 0b0010_11_00000000_00000101_00101101_00011110#38 = .instr (.enct 30 45 5 0b11) := by decide
theorem test_decode_dect :
    decode 0b0011_01_00000000_01100101_01000101_00110000#38 = .instr (.dect 0x30 0x45 0x65) := by decide
theorem test_decode_encd :
    decode 0b0100_00_00011010_00001011_00001010_00000011#38 = .instr (.encd 3 10 11 26) := by decide
theorem test_decode_decd :
    decode 0b0101_00_00100110_00010001_00010000_00000011#38 = .instr (.decd 0x03 0x10 0x11 0x26) := by decide
theorem test_decode_encsqw :
    decode 0b0110_00_00000000_00000000_00000000_00000001#38 = .instr (.encsqw 1) := by decide
theorem test_decode_chkhalt :
    decode 0b0111_00_00000000_00000000_00000000_10000000#38 = .instr (.chkhalt 0x80) := by decide

/-- R96: the first and the last reserved operation code, and the one with operands of `95_test_vectors.md`. -/
theorem test_decode_reserved :
    decode 0x2000000000#38 = .rejected (.reservedOp 8) ∧ decode 0x3004030201#38 = .rejected (.reservedOp 12) ∧
    decode 0x3FFFFFFFFF#38 = .rejected (.reservedOp 15) := by decide

/-- The encoder against the `REQ` column of `95_test_vectors.md`. -/
theorem test_encode :
    encode (.b2bcd 45) = 0x000000002D#38 ∧ encode (.bcd2b 0x59) = 0x0400000059#38 ∧
    encode (.enct 30 45 5 0b11) = 0x0B00052D1E#38 ∧ encode (.dect 0x30 0x45 0x65) = 0x0C00654530#38 ∧
    encode (.encd 3 10 11 26) = 0x101A0B0A03#38 ∧ encode (.decd 0x03 0x10 0x11 0x26) = 0x1426111003#38 ∧
    encode (.encsqw 1) = 0x1800000001#38 ∧ encode (.chkhalt 0x80) = 0x1C00000080#38 := by decide

/-- A table row's word, with the bits of its padding to whole bytes set and clear (log 17). -/
theorem test_decode_table_word :
    decodeTableWord 40 0x1C00000080 = some (.chkhalt 0x80) ∧ decodeTableWord 40 0xDC00000080 = some (.chkhalt 0x80) ∧
    decodeTableWord 40 0x2000000000 = none := by decide

/-! ### The operations: one step on a request put on the wires, against `95_test_vectors.md` parts 1 and 2 -/

/-- The response word of one step on the request `w`. -/
def answer (w : Nat) : Option RspWord :=
  match step (State.reset.withFetchWord 40 w) with
  | .next t => some t.rsp.word
  | .fault _ | .refused _ => none

theorem test_b2bcd :
    answer 0x000000002D = some 0x000000000045#48 ∧ answer 0x0000000063 = some 0x000000000099#48 ∧
    answer 0x03FFFFFF2D = some 0x000000000045#48 := by decide
theorem test_b2bcd_out_of_range :
    answer 0x0000000064 = some 0x0000000000A0#48 ∧ answer 0x000000009F = some 0x0000000000F9#48 ∧
    answer 0x00000000A0 = some 0x000000000000#48 ∧ answer 0x00000000FF = some 0x000000000095#48 := by decide

theorem test_bcd2b :
    answer 0x0400000059 = some 0x00000000003B#48 ∧ answer 0x0400000099 = some 0x000000000063#48 := by decide
theorem test_bcd2b_malformed :
    answer 0x040000000A = some 0x00000000000A#48 ∧ answer 0x04000000FF = some 0x0000000000A5#48 := by decide

theorem test_enct :
    answer 0x0B00052D1E = some 0x030000654530#48 ∧ answer 0x0800173B3B = some 0x030000235959#48 ∧
    answer 0x0A000C0000 = some 0x030000520000#48 ∧ answer 0x0900000000 = some 0x800000000000#48 := by decide
theorem test_enct_out_of_range :
    answer 0x0800286350 = some 0x030000009900#48 ∧ answer 0x0800FFFFFF = some 0x030000959515#48 ∧
    answer 0x0A00195063 = some 0x030000458019#48 ∧ answer 0x0B00190000 = some 0x030000650000#48 := by decide

theorem test_dect :
    answer 0x0C00654530 = some 0x1B0000052D1E#48 ∧ answer 0x0C00235959 = some 0x030000173B3B#48 ∧
    answer 0x0C00520000 = some 0x1300000C0000#48 ∧ answer 0x0D00654530 = some 0x1B0000052D1E#48 := by decide
theorem test_dect_masks :
    answer 0x0C002359D9 = some 0x030000173B3B#48 ∧ answer 0x0C00E50000 = some 0x1B0000050000#48 ∧
    answer 0x0C00FFFFFF = some 0x1B000019A555#48 ∧ answer 0x0C003F007F = some 0x0300002D0055#48 := by decide

theorem test_encd :
    answer 0x101A0B0A03 = some 0x040326111003#48 ∧ answer 0x10630C1F07 = some 0x040399123107#48 := by decide
theorem test_encd_out_of_range :
    answer 0x10640D2008 = some 0x0403A0133208#48 ∧ answer 0x10FFFFFFFF = some 0x040395959595#48 := by decide

theorem test_decd :
    answer 0x1426111003 = some 0x04031A0B0A03#48 ∧ answer 0x1499123107 = some 0x0403630C1F07#48 := by decide
theorem test_decd_malformed :
    answer 0x14FFFFFFFF = some 0x0403A5A5A5A5#48 ∧ answer 0x149AA01F0A = some 0x04036464190A#48 := by decide

theorem test_encsqw :
    answer 0x1800000000 = some 0x010700000000#48 ∧ answer 0x1800000001 = some 0x010700000010#48 ∧
    answer 0x1800000002 = some 0x010700000011#48 ∧ answer 0x1800000003 = some 0x010700000012#48 ∧
    answer 0x1800000004 = some 0x010700000013#48 ∧ answer 0x1800000005 = some 0x010700000080#48 := by decide
theorem test_encsqw_reserved :
    answer 0x1800000006 = some 0x800000000000#48 ∧ answer 0x1800000008 = some 0x800000000000#48 ∧
    answer 0x18000000FF = some 0x800000000000#48 := by decide

theorem test_chkhalt :
    answer 0x1C00000080 = some 0x610000000000#48 ∧ answer 0x1C000000D9 = some 0x610000000000#48 ∧
    answer 0x1C000000FF = some 0x610000000000#48 := by decide
theorem test_chkhalt_running :
    answer 0x1C00000000 = some 0x010000000000#48 ∧ answer 0x1C0000007F = some 0x010000000000#48 := by decide

theorem test_reserved_operation :
    answer 0x2000000000 = some 0x800000000000#48 ∧ answer 0x3004030201 = some 0x800000000000#48 ∧
    answer 0x3FFFFFFFFF = some 0x800000000000#48 := by decide

/-! ### The host: one step each on a device with known registers (program P1's start, 23:59:59 halted) -/

/-- A call that returns, on a device that changes nothing on its own. -/
def quiet : EnvEvent := { before := [], after := [], contents := [], outcome := .returns, byte := 0xEE }

/-- A call that fails. -/
def failing : EnvEvent := { quiet with outcome := .fails }

/-- A call that never returns. -/
def hanging : EnvEvent := { quiet with outcome := .hangs }

/-- The start of program P1 with `n` quiet events and a host program. -/
def p1 (n : Nat) (program : List HostOp) : State :=
  State.reset.launch [(0, 0xD9), (1, 0x59), (2, 0x23), (3, 0x07), (4, 0x31), (5, 0x12), (6, 0x99), (7, 0x13)] 0 program
    (List.replicate n quiet)

/-- The same in the middle of a sequence: `a` is next. -/
def p1At (a : HostAct) : State := { p1 6 [] with todo := [a] }

/-- What one step's next state holds of `f`. -/
def after {α : Type} (s : State) (f : State → α) : Option α :=
  match step s with
  | .next t => some (f t)
  | .fault _ | .refused _ => none

/-- R193: the pointer is set, and the call is made to 0x68. -/
theorem test_pointer_send :
    after (p1At (.pointer 0x03)) (fun t => (t.dev.ptr, t.calls)) = some (0x03, [Call.send 0x68 [0x03]]) := by decide

/-- R42, R193: three bytes from 0x00 on, and the pointer is at 0x03 after them (P1's end). -/
theorem test_receive :
    after (p1At (.receive false 3)) (fun t => (t.received, t.dev.ptr)) = some ([0xD9, 0x59, 0x23], 0x03) := by decide

/-- U7, R264, R272: a raw read of 0x00 or 0x07 gives free bytes; one inside the general-purpose block gives its register. -/
theorem test_raw_receive :
    after { p1At (.receive true 1) with dev := { (p1 6 []).dev with ptr := 0x07 } } (fun t => t.received) = some [0xEE] ∧
    after (p1At (.receive true 1)) (fun t => t.received) = some [0xEE] ∧
    after { p1At (.receive true 1) with dev := { regs := [(0x20, 0x11)], ptr := 0x20 } } (fun t => t.received) = some [0x11] := by
  decide

/-- R62, R192: the payload goes to consecutive registers; the one behind it stays (P1's second frame). -/
theorem test_write_image :
    after { p1At .writeImage with rsp := answerEnct 30 45 14 0b00 }
        (fun t => (t.calls, t.dev.regs.read 0, t.dev.regs.read 1, t.dev.regs.read 2, t.dev.regs.read 3)) =
      some ([Call.send 0x68 [0x00, 0x30, 0x45, 0x14]], some 0x30, some 0x45, some 0x14, some 0x07) := by decide

/-- R195: the write is made exactly when `wr_req` = 1 (properties S6). -/
theorem test_conditional_write :
    after { p1At .writeImageIfRequested with rsp := answerChkhalt 0xD9 } (fun t => (t.calls, t.dev.regs.read 0)) =
      some ([Call.send 0x68 [0x00, 0x00]], some 0x00) ∧
    after { p1At .writeImageIfRequested with rsp := answerChkhalt 0x15 } (fun t => t.calls) = some [] := by decide

/-- R233: an illegal response makes no transport call. -/
theorem test_illegal_response_makes_no_call :
    after { p1At .writeImage with rsp := Response.illegalAnswer } (fun t => (t.calls, t.returned)) =
      some ([], [HostResult.illegalRequest]) := by decide

/-- R202, property S8: the second send of `ram_write` is the payload alone, and what the device then holds is not given. -/
theorem test_ram_write_payload :
    after { p1At (.payload [0xAA, 0xBB]) with env := [{ quiet with contents := [(0x20, 0x77)] }] }
        (fun t => (t.calls, t.dev.regs.byte 0x20, t.dev.ptr)) = some ([Call.send 0x68 [0xAA, 0xBB]], 0x77, 0xEE) := by decide

/-- R278: the registers of time may have changed before a byte is returned; 0x07 may not. -/
theorem test_device_changes_on_its_own :
    after { p1At (.receive false 1) with env := [quiet, { quiet with before := [(0, 0x00), (7, 0x00)] }] }
        (fun t => (t.received, t.dev.regs.read 7)) = some ([0x00], some 0x13) := by decide

/-- R278: nor need a register of time still hold at the end what the last call wrote. -/
theorem test_device_changes_after_the_last_call :
    after { p1At .writeImage with rsp := answerEnct 30 45 14 0b00, env := [{ quiet with after := [(0, 0x31)] }] }
        (fun t => (t.dev.regs.byte 0, t.dev.regs.byte 1)) = some (0x31, 0x45) := by decide

/-- R231: a failed call is unobserved by default. -/
theorem test_failed_receive :
    after { p1At (.receive false 2) with env := List.replicate 3 failing } (fun t => (t.received, t.todo)) =
      some ([0xEE, 0xEE], []) := by decide

/-- R263, U16: the two stops. -/
theorem test_stops :
    step { p1At (.pointer 0) with transport := false } = .fault .noTransport ∧
    step { p1At (.pointer 0) with env := [hanging] } = .fault .transportHang := ⟨rfl, rfl⟩

/-- R20, R46: reset lists no register, and its memory is in canonical form. -/
theorem test_reset : State.reset.dev.regs.wf = true ∧ State.reset.mover = .block := by decide

/-- Writing keeps the list sorted and does not double an address. -/
theorem test_memory_write :
    (Memory.write [(1, 0x59), (7, 0x13)] 3 0x07) = [(1, 0x59), (3, 0x07), (7, 0x13)] ∧
    (Memory.write [(1, 0x59), (7, 0x13)] 7 0x10) = [(1, 0x59), (7, 0x10)] := by decide

/-! ### Witnesses: for every statement with hypotheses, a case that meets them -/

/-- A state whose block moves, with a request on its wires. -/
def wired (r : Request) : State := State.reset.presentRequest r

theorem witness_EncodeOfDecodeClearsUnreadFields :
    decode 0x03FFFFFF2D#38 = .instr (.b2bcd 45) ∧ decode 0x07FFFFFF59#38 = .instr (.bcd2b 0x59) ∧
    decode 0x0BFF052D1E#38 = .instr (.enct 30 45 5 0b11) ∧ decode 0x0FFF654530#38 = .instr (.dect 0x30 0x45 0x65) ∧
    decode 0x131A0B0A03#38 = .instr (.encd 3 10 11 26) ∧ decode 0x1726111003#38 = .instr (.decd 0x03 0x10 0x11 0x26) ∧
    decode 0x1BFFFFFF01#38 = .instr (.encsqw 1) ∧ decode 0x1FFFFFFF80#38 = .instr (.chkhalt 0x80) := by decide

theorem witness_StepRunsDecodedInstruction :
    (wired ⟨0, 3, 45, 1, 2, 3⟩).mover = .block ∧ decode (wired ⟨0, 3, 45, 1, 2, 3⟩).req.word = .instr (.b2bcd 45) := by decide

theorem witness_PlacedWordRunsInNextStep : decodeTableWord 40 0x1800000006 = some (.encsqw 6) := by decide

/-- The block moves when a request was presented, and when the host is idle. -/
theorem witness_BlockMoveIsTheCodecFunction : (wired ⟨8, 0, 0, 0, 0, 0⟩).mover = .block ∧ State.reset.mover = .block := by
  decide

theorem witness_ResponseDependsOnRequestAlone :
    (wired ⟨3, 0, 1, 2, 3, 4⟩).mover = .block ∧ ((p1 2 [HostOp.init]).presentRequest ⟨3, 0, 1, 2, 3, 4⟩).mover = .block ∧
    (wired ⟨3, 0, 1, 2, 3, 4⟩).req = ((p1 2 [HostOp.init]).presentRequest ⟨3, 0, 1, 2, 3, 4⟩).req := by decide

/-- For each premise of the statement, two different requests that meet all premises (the last pair: a reserved code). -/
theorem witness_UnreadRequestFieldsHaveNoEffect :
    let meets := fun (r r' : Request) =>
      r ≠ r' ∧ r.op = r'.op ∧
      (r.op = 0b0000#4 ∨ r.op = 0b0001#4 ∨ r.op = 0b0110#4 → r.d0 = r'.d0) ∧
      (r.op = 0b0010#4 → r.d0 = r'.d0 ∧ r.d1 = r'.d1 ∧ r.d2 = r'.d2 ∧ r.fmt = r'.fmt) ∧
      (r.op = 0b0011#4 → r.d0 = r'.d0 ∧ r.d1 = r'.d1 ∧ r.d2 = r'.d2) ∧
      (r.op = 0b0100#4 ∨ r.op = 0b0101#4 → r.d0 = r'.d0 ∧ r.d1 = r'.d1 ∧ r.d2 = r'.d2 ∧ r.d3 = r'.d3) ∧
      (r.op = 0b0111#4 → r.d0.getLsbD 7 = r'.d0.getLsbD 7)
    meets ⟨0, 0, 45, 0, 0, 0⟩ ⟨0, 3, 45, 1, 2, 3⟩ ∧ meets ⟨1, 0, 45, 0, 0, 0⟩ ⟨1, 3, 45, 1, 2, 3⟩ ∧
    meets ⟨2, 1, 1, 2, 3, 0⟩ ⟨2, 1, 1, 2, 3, 255⟩ ∧ meets ⟨3, 1, 1, 2, 3, 0⟩ ⟨3, 0, 1, 2, 3, 255⟩ ∧
    meets ⟨4, 1, 1, 2, 3, 4⟩ ⟨4, 0, 1, 2, 3, 4⟩ ∧ meets ⟨5, 1, 1, 2, 3, 4⟩ ⟨5, 0, 1, 2, 3, 4⟩ ∧
    meets ⟨6, 0, 6, 0, 0, 0⟩ ⟨6, 3, 6, 1, 2, 3⟩ ∧ meets ⟨7, 0, 0x80, 0, 0, 0⟩ ⟨7, 3, 0xFF, 1, 2, 3⟩ ∧
    meets ⟨8, 0, 0, 0, 0, 0⟩ ⟨8, 3, 255, 1, 2, 3⟩ := by
  refine ⟨?_, ?_, ?_, ?_, ?_, ?_, ?_, ?_, ?_⟩ <;> exact ⟨by decide, by decide, by decide, by decide, by decide, by decide, by decide⟩

/-- Each of the three conditions at its bounds, and just outside them. -/
theorem witness_IllegalForExactlyThreeConditions :
    (wired ⟨8, 0, 0, 0, 0, 0⟩).mover = .block ∧ (wired ⟨7, 0, 0, 0, 0, 0⟩).mover = .block ∧
    (wired ⟨2, 1, 0, 0, 0, 0⟩).mover = .block ∧ (wired ⟨2, 2, 0, 0, 0, 0⟩).mover = .block ∧
    (wired ⟨6, 0, 6, 0, 0, 0⟩).mover = .block ∧ (wired ⟨6, 0, 5, 0, 0, 0⟩).mover = .block := by decide

theorem witness_IllegalRequestGetsIllegalResponse :
    let bad := fun (r : Request) =>
      (wired r).mover = .block ∧
      (8 ≤ (wired r).req.op.toNat ∨ ((wired r).req.op = 0b0010#4 ∧ (wired r).req.fmt = 0b01#2) ∨
        ((wired r).req.op = 0b0110#4 ∧ 5 < (wired r).req.d0.toNat))
    bad ⟨8, 0, 0, 0, 0, 0⟩ ∧ bad ⟨15, 3, 255, 255, 255, 255⟩ ∧ bad ⟨2, 1, 1, 2, 3, 4⟩ ∧ bad ⟨6, 0, 6, 0, 0, 0⟩ ∧
    bad ⟨6, 0, 255, 0, 0, 0⟩ := by decide

theorem witness_UndrivenResponseFieldsAreZero :
    (Instr.b2bcd 255).wellFormed = true ∧ (Instr.bcd2b 255).wellFormed = true ∧
    (Instr.enct 255 255 255 0b11).wellFormed = true ∧ (Instr.dect 255 255 255).wellFormed = true ∧
    (Instr.encd 255 255 255 255).wellFormed = true ∧ (Instr.decd 255 255 255 255).wellFormed = true ∧
    (Instr.encsqw 5).wellFormed = true ∧ (Instr.chkhalt 255).wellFormed = true := by decide

theorem witness_TransferConstantsPerOperation :
    (wired ⟨8, 0, 1, 2, 3, 4⟩).mover = .block ∧ 8 ≤ (wired ⟨8, 0, 1, 2, 3, 4⟩).req.op.toNat ∧
    (wired ⟨15, 0, 1, 2, 3, 4⟩).mover = .block ∧ 8 ≤ (wired ⟨15, 0, 1, 2, 3, 4⟩).req.op.toNat := by decide

theorem witness_B2bcdGivesBcdByte :
    (wired ⟨0b0000, 3, 255, 1, 2, 3⟩).mover = .block ∧ (wired ⟨0b0000, 3, 255, 1, 2, 3⟩).req = ⟨0b0000#4, 3, 255, 1, 2, 3⟩ := by
  decide
theorem witness_Bcd2bGivesBinaryByte :
    (wired ⟨0b0001, 3, 255, 1, 2, 3⟩).mover = .block ∧ (wired ⟨0b0001, 3, 255, 1, 2, 3⟩).req = ⟨0b0001#4, 3, 255, 1, 2, 3⟩ := by
  decide
/-- All four format codes. -/
theorem witness_EnctGivesTimeRegisterBytes :
    let met := fun (fmt : BitVec 2) =>
      (wired ⟨0b0010, fmt, 59, 59, 23, 9⟩).mover = .block ∧
      (wired ⟨0b0010, fmt, 59, 59, 23, 9⟩).req = ⟨0b0010#4, fmt, 59, 59, 23, 9⟩
    met 0b00 ∧ met 0b01 ∧ met 0b10 ∧ met 0b11 := by decide
/-- Each legal format, so that each clause on `fmt` has a case. -/
theorem witness_TimeRegisterBytesBitByBit :
    (0b00#2 ≠ 0b01#2 ∧ (0b00#2).getLsbD 1 = false) ∧ (0b10#2 ≠ 0b01#2 ∧ (0b10#2).getLsbD 1 = true) ∧
    (0b11#2 ≠ 0b01#2 ∧ (0b11#2).getLsbD 1 = true) := by decide
theorem witness_DectGivesTimeValue :
    (wired ⟨0b0011, 1, 0xFF, 0xFF, 0xFF, 9⟩).mover = .block ∧
    (wired ⟨0b0011, 1, 0xFF, 0xFF, 0xFF, 9⟩).req = ⟨0b0011#4, 1, 0xFF, 0xFF, 0xFF, 9⟩ := by decide
/-- The two clauses on bit 6, at the byte of the largest result of each (R145). -/
theorem witness_DecodedTimeBoundsAndFormat : (0x7F#8).getLsbD 6 = true ∧ (0x3F#8).getLsbD 6 = false := by decide
theorem witness_EncdGivesDateRegisterBytes :
    (wired ⟨0b0100, 1, 7, 31, 12, 99⟩).mover = .block ∧
    (wired ⟨0b0100, 1, 7, 31, 12, 99⟩).req = ⟨0b0100#4, 1, 7, 31, 12, 99⟩ := by decide
theorem witness_DecdGivesDateValue :
    (wired ⟨0b0101, 1, 7, 0x31, 0x12, 0x99⟩).mover = .block ∧
    (wired ⟨0b0101, 1, 7, 0x31, 0x12, 0x99⟩).req = ⟨0b0101#4, 1, 7, 0x31, 0x12, 0x99⟩ := by decide
/-- The last legal and the first reserved select value. -/
theorem witness_EncsqwGivesControlByte :
    (wired ⟨0b0110, 3, 5, 1, 2, 3⟩).mover = .block ∧ (wired ⟨0b0110, 3, 5, 1, 2, 3⟩).req = ⟨0b0110#4, 3, 5, 1, 2, 3⟩ ∧
    (wired ⟨0b0110, 3, 6, 1, 2, 3⟩).mover = .block ∧ (wired ⟨0b0110, 3, 6, 1, 2, 3⟩).req = ⟨0b0110#4, 3, 6, 1, 2, 3⟩ := by
  decide
/-- Bit 7 clear and set, at the bounds. -/
theorem witness_ChkhaltTestsClockHaltBit :
    (wired ⟨0b0111, 3, 0x7F, 1, 2, 3⟩).mover = .block ∧ (wired ⟨0b0111, 3, 0x7F, 1, 2, 3⟩).req = ⟨0b0111#4, 3, 0x7F, 1, 2, 3⟩ ∧
    (wired ⟨0b0111, 3, 0x80, 1, 2, 3⟩).mover = .block ∧ (wired ⟨0b0111, 3, 0x80, 1, 2, 3⟩).req = ⟨0b0111#4, 3, 0x80, 1, 2, 3⟩ := by
  decide

/-- Both clauses at both of their bounds. -/
theorem witness_B2bcdOutOfRangeValues :
    (100 ≤ (100#8).toNat ∧ (100#8).toNat ≤ 159) ∧ (100 ≤ (159#8).toNat ∧ (159#8).toNat ≤ 159) ∧
    (100 ≤ (160#8).toNat ∧ 160 ≤ (160#8).toNat) ∧ (100 ≤ (255#8).toNat ∧ 160 ≤ (255#8).toNat) := by decide

theorem witness_NoSecondsByteSetsClockHalt :
    let writesSeconds := fun (i : Instr) => match i with | .enct _ _ _ _ | .chkhalt _ => True | _ => False
    writesSeconds (.enct 255 255 255 0b11) ∧ writesSeconds (.chkhalt 255) := ⟨trivial, trivial⟩

/-- Each format at the ends of its range. -/
theorem witness_TimeRoundTripInRange :
    let inRange := fun (sec min hr : Byte) (fmt : BitVec 2) =>
      sec.toNat ≤ 59 ∧ min.toNat ≤ 59 ∧
      ((fmt = 0b00#2 ∧ hr.toNat ≤ 23) ∨ ((fmt = 0b10#2 ∨ fmt = 0b11#2) ∧ 1 ≤ hr.toNat ∧ hr.toNat ≤ 12))
    inRange 0 0 0 0b00 ∧ inRange 59 59 23 0b00 ∧ inRange 59 59 1 0b10 ∧ inRange 59 59 12 0b10 ∧ inRange 59 59 1 0b11 ∧
    inRange 59 59 12 0b11 := by decide
theorem witness_TimeRoundTripExactExtent : 0b00#2 ≠ 0b01#2 ∧ 0b10#2 ≠ 0b01#2 ∧ 0b11#2 ≠ 0b01#2 := by decide
theorem witness_DateRoundTrip :
    ((99#8).toNat ≤ 99 ∧ (0#8).toNat ≤ 99) ∧ validBcd 0x99 = true ∧ validBcd 0x00 = true := by decide
/-- The 24-hour and the 12-hour clause at the ends of their ranges. -/
theorem witness_DigitFieldsOfTimeRegisters :
    (59#8).toNat ≤ 59 ∧ (0b00#2 ≠ 0b01#2 ∧ (23#8).toNat ≤ 23 ∧ (0#8).toNat ≤ 23) ∧
    (0b10#2 ≠ 0b01#2 ∧ 0b10#2 ≠ 0b00#2 ∧ 1 ≤ (1#8).toNat ∧ (1#8).toNat ≤ 12) ∧
    (0b11#2 ≠ 0b01#2 ∧ 0b11#2 ≠ 0b00#2 ∧ 1 ≤ (12#8).toNat ∧ (12#8).toNat ≤ 12) := by decide

/-! #### Whole-machine rules -/

theorem inv_p1At (a : HostAct) : (p1At a).Inv :=
  { memory := rfl, params := rfl, answer := ⟨0#38, rfl⟩, calls := by simp [p1At, p1, State.reset, State.launch] }

/-- A step of the host that writes the device. -/
theorem witness_EveryStepKeepsInvariant : (p1At (.pointer 3)).Inv ∧ ∃ t, step (p1At (.pointer 3)) = .next t :=
  ⟨inv_p1At _, _, rfl⟩

/-- A state with the invariant, and one whose sampled response is the illegal one. -/
theorem witness_ResponseShape :
    (p1At .writeImage).Inv ∧ ({ p1At .writeImage with rsp := Response.illegalAnswer } : State).Inv :=
  ⟨inv_p1At _, { inv_p1At .writeImage with answer := ⟨0x3FFFFFFFFF#38, by decide⟩ }⟩

/-- A step of the block, and one of the host that makes a call. -/
theorem witness_DeviceChangesOnlyInHostCalls :
    (∃ t, step State.reset = .next t) ∧ ∃ t, step (p1At (.pointer 3)) = .next t := ⟨⟨_, rfl⟩, ⟨_, rfl⟩⟩
theorem witness_ParametersAndTransportStay : ∃ t, step (p1At (.receive false 3)) = .next t := ⟨_, rfl⟩
theorem witness_OnlyTheBlockAnswers :
    ((p1At .giveTime).mover = .host ∧ ∃ t, step (p1At .giveTime) = .next t) ∧
    (State.reset.mover = .block ∧ ∃ t, step State.reset = .next t) := ⟨⟨by decide, _, rfl⟩, ⟨by decide, _, rfl⟩⟩

/-! #### The host over the transport and the device -/

theorem quiet_p1 (n : Nat) (program : List HostOp) : (p1 n program).Quiet n := by
  refine ⟨by simp [p1, State.launch], fun e he => ?_⟩
  have : e = quiet := List.eq_of_mem_replicate (List.mem_of_mem_take he)
  subst this
  exact ⟨rfl, rfl, rfl⟩

theorem returning_p1 (n : Nat) (program : List HostOp) : (p1 n program).Returning n :=
  ⟨(quiet_p1 n program).1, fun e he => ((quiet_p1 n program).2 e he).1⟩

theorem ending_p1 (n : Nat) (program : List HostOp) : (p1 n program).Ending n :=
  ⟨(quiet_p1 n program).1, fun e he => by simp [((quiet_p1 n program).2 e he).1]⟩

theorem before_p1 (n : Nat) (op : HostOp) (rest : List HostOp) : (p1 n (op :: rest)).Before op rest := ⟨rfl, rfl, rfl, rfl⟩

/-- All eight registers at once, the last register alone, and the one general-purpose register of the reset parameters. -/
theorem witness_RegisterWriteStoresPayload :
    let s := p1 1 []
    (s.transport = true ∧ s.Quiet 1) ∧
    ([1, 2, 3, 4, 5, 6, 7, 8] : List Byte) ≠ [] ∧ s.params.sameRegion (0x00#8).toNat ((0x00#8).toNat + (8 - 1)) = true ∧
    ([1] : List Byte) ≠ [] ∧ s.params.sameRegion (0x07#8).toNat ((0x07#8).toNat + (1 - 1)) = true ∧
    s.params.sameRegion (0x20#8).toNat ((0x20#8).toNat + (1 - 1)) = true :=
  ⟨⟨rfl, quiet_p1 1 []⟩, by decide, by decide, by decide, by decide, by decide⟩

/-- The time image, all eight registers, and a general-purpose register, raw and not. -/
theorem witness_RegisterReadReturnsContents :
    ((p1 5 []).transport = true ∧ (p1 5 []).Quiet (3 + 2) ∧ 0 < 3 ∧
      (p1 5 []).params.reaches false (0x00#8).toNat ((0x00#8).toNat + (3 - 1)) = true ∧
      (p1 5 []).dev.regs.byte ((0x00#8).toNat + 2) = 0x23) ∧
    ((p1 10 []).Quiet (8 + 2) ∧ (p1 10 []).params.reaches false (0x00#8).toNat ((0x00#8).toNat + (8 - 1)) = true ∧
      (p1 10 []).dev.regs.byte ((0x00#8).toNat + 7) = 0x13) ∧
    ((p1 3 []).Quiet (1 + 2) ∧ ∀ raw ∈ [false, true],
      (p1 3 []).params.reaches raw (0x20#8).toNat ((0x20#8).toNat + (1 - 1)) = true) :=
  ⟨⟨rfl, quiet_p1 5 [], by decide, by decide, by decide⟩, ⟨quiet_p1 10 [], by decide, by decide⟩, quiet_p1 3 [], by decide⟩

theorem witness_ReceiveLeavesOtherRegisters :
    (∃ t, (p1 4 []).receive false 3 = .next t) ∧ ∃ t, (p1 4 []).receive true 3 = .next t := ⟨⟨_, rfl⟩, ⟨_, rfl⟩⟩

/-- A halted clock, and the same device running. -/
theorem witness_InitWritesExactlyWhenHalted :
    (p1 4 [.init]).Before .init [] ∧ (p1 4 [.init]).Returning 4 ∧ (p1 4 [.init]).Quiet 4 ∧
    (p1 4 [.init]).dev.regs.byte 0x00 = 0xD9 ∧
    (let s := State.reset.launch [(0, 0x15)] 0 [.init] (List.replicate 4 quiet)
     s.Before .init [] ∧ s.Returning 4 ∧ s.Quiet 4 ∧ s.dev.regs.byte 0x00 = 0x15) :=
  ⟨before_p1 .., returning_p1 .., quiet_p1 .., by decide, ⟨rfl, rfl, rfl, rfl⟩, returning_p1 4 [.init], quiet_p1 4 [.init], by decide⟩

theorem witness_InitRestartsHaltedClock :
    (p1 4 [.init]).Before .init [] ∧ (p1 4 [.init]).Quiet 4 ∧
    ((p1 4 [.init]).dev.regs.byte 0x00).getLsbD 7 = true := ⟨before_p1 .., quiet_p1 .., by decide⟩

theorem witness_SetTimeSendsOneFrame :
    (p1 1 [.setTime ⟨30, 45, 14, 0b00⟩]).Before (.setTime ⟨30, 45, 14, 0b00⟩) [] ∧
    (p1 1 [.setTime ⟨30, 45, 14, 0b00⟩]).Returning 1 ∧ 0b00#2 ≠ 0b01#2 ∧ (p1 1 [.setTime ⟨30, 45, 14, 0b00⟩]).Quiet 1 :=
  ⟨before_p1 .., returning_p1 .., by decide, quiet_p1 ..⟩

theorem witness_GetTimeReturnsDecodedBytes : (p1 5 [.getTime]).Before .getTime [] ∧ (p1 5 [.getTime]).Returning 5 :=
  ⟨before_p1 .., returning_p1 ..⟩

theorem witness_SetDateSendsOneFrame :
    (p1 1 [.setDate ⟨3, 10, 11, 26⟩]).Before (.setDate ⟨3, 10, 11, 26⟩) [] ∧ (p1 1 [.setDate ⟨3, 10, 11, 26⟩]).Returning 1 :=
  ⟨before_p1 .., returning_p1 ..⟩

theorem witness_GetDateReturnsDecodedBytes : (p1 6 [.getDate]).Before .getDate [] ∧ (p1 6 [.getDate]).Returning 6 :=
  ⟨before_p1 .., returning_p1 ..⟩

/-- The two clauses at the bounds of the legal select values. -/
theorem witness_SetSquareWaveSendsOneFrame :
    ((p1 1 [.setSquareWave 5]).Before (.setSquareWave 5) [] ∧ (5#8).toNat ≤ 5 ∧ (p1 1 [.setSquareWave 5]).Returning 1 ∧
      (p1 1 [.setSquareWave 5]).Quiet 1) ∧
    ((p1 0 [.setSquareWave 6]).Before (.setSquareWave 6) [] ∧ 5 < (6#8).toNat) :=
  ⟨⟨before_p1 .., by decide, returning_p1 .., quiet_p1 ..⟩, before_p1 .., by decide⟩

/-- Two bytes, and none. -/
theorem witness_RamReadReturnsRawBytes :
    ((p1 4 [.ramRead 0x20 2]).Before (.ramRead 0x20 2) [] ∧ (p1 4 [.ramRead 0x20 2]).Returning (2 + 2)) ∧
    ((p1 2 [.ramRead 0x20 0]).Before (.ramRead 0x20 0) [] ∧ (p1 2 [.ramRead 0x20 0]).Returning (0 + 2)) :=
  ⟨⟨before_p1 .., returning_p1 4 _⟩, before_p1 .., returning_p1 2 _⟩

/-- The clause on calls that return, and the one on a second call that fails. -/
theorem witness_RamWriteMakesTwoSends :
    ((p1 2 [.ramWrite 0x20 [0xAA, 0xBB]]).Before (.ramWrite 0x20 [0xAA, 0xBB]) [] ∧
      (p1 2 [.ramWrite 0x20 [0xAA, 0xBB]]).Returning 2) ∧
    (let s : State := { p1 2 [.ramWrite 0x20 [0xAA, 0xBB]] with env := [quiet, failing] }
     s.Before (.ramWrite 0x20 [0xAA, 0xBB]) [] ∧ s.env = quiet :: failing :: [] ∧ quiet.outcome = .returns ∧
      quiet.Still ∧ failing.outcome = .fails ∧ failing.Still ∧ s.params.transportFallible = false) :=
  ⟨⟨before_p1 .., returning_p1 ..⟩, ⟨rfl, rfl, rfl, rfl⟩, rfl, rfl, ⟨rfl, rfl⟩, rfl, ⟨rfl, rfl⟩, rfl⟩

/-- Every sequence, and both cases of `init`. -/
theorem witness_TransportCallsPerSequence :
    let met := fun (op : HostOp) =>
      (p1 op.events [op]).Before op [] ∧ (p1 op.events [op]).Returning op.events ∧ op.legal = true
    met (.request ⟨2, 0, 1, 2, 3, 4⟩) ∧ met .init ∧ met (.setTime ⟨30, 45, 14, 0b10⟩) ∧ met .getTime ∧
    met (.setDate ⟨3, 10, 11, 26⟩) ∧ met .getDate ∧ met (.setSquareWave 5) ∧ met (.ramRead 0x20 2) ∧
    met (.ramWrite 0x20 [0xAA, 0xBB]) ∧
    (let s := State.reset.launch [(0, 0x15)] 0 [.init] (List.replicate 4 quiet)
     s.Before .init [] ∧ s.Returning (HostOp.init).events) := by
  refine ⟨?_, ?_, ?_, ?_, ?_, ?_, ?_, ?_, ?_, ⟨rfl, rfl, rfl, rfl⟩, returning_p1 4 [.init]⟩ <;>
    exact ⟨before_p1 .., returning_p1 .., by decide⟩

/-- Both actions that write an image. -/
theorem witness_IllegalResponseStopsSequence :
    let s := fun (a : HostAct) => ({ p1At a with rsp := Response.illegalAnswer, todo := [a, .giveNothing] } : State)
    ((s .writeImage).turn = .host ∧ (s .writeImage).todo = .writeImage :: [.giveNothing] ∧ (s .writeImage).rsp.illegal = true) ∧
    ((s .writeImageIfRequested).turn = .host ∧
      (s .writeImageIfRequested).todo = .writeImageIfRequested :: [.giveNothing] ∧
      (s .writeImageIfRequested).rsp.illegal = true) := by decide

/-- Each of the six calls, with the parameter false and true: the buffer it sends, or a receive, raw or not. -/
theorem witness_FailedCallDefaultAndFallible :
    let s := fun (f : Bool) (a : HostAct) =>
      ({ p1At a with
          env := List.replicate 3 failing, rsp := answerChkhalt 0xD9,
          params := { State.reset.params with transportFallible := f } } : State)
    let met := fun (f : Bool) (a : HostAct) =>
      (s f a).turn = .host ∧ (s f a).transport = true ∧ (s f a).todo = a :: [] ∧
      (s f a).env = failing :: List.replicate 2 failing ∧ failing.outcome = .fails ∧ (s f a).params.transportFallible = f
    (∀ f ∈ [false, true], met f (.pointer 0) ∧ met f (.payload [1]) ∧ met f .writeImage ∧ met f .writeImageIfRequested ∧
      met f (.receive false 2) ∧ met f (.receive true 2)) ∧
    (HostAct.pointer 0).sends (answerChkhalt 0xD9) = some [0] ∧ (HostAct.payload [1]).sends (answerChkhalt 0xD9) = some [1] ∧
    HostAct.writeImage.sends (answerChkhalt 0xD9) = some [0x00, 0x00] ∧
    HostAct.writeImageIfRequested.sends (answerChkhalt 0xD9) = some [0x00, 0x00] := by decide

/-- Each of the premises of a stop, the last with each of the six calls. -/
theorem witness_StopsAreTransportStops :
    step { p1At (.pointer 0) with transport := false } = .fault .noTransport ∧
    step { p1At (.receive false 1) with env := [hanging] } = .fault .transportHang ∧
    (∀ a ∈ [HostAct.pointer 0, .payload [1], .writeImage, .writeImageIfRequested, .receive false 1, .receive true 1],
      let s : State := { p1At a with transport := false, rsp := answerChkhalt 0xD9 }
      s.turn = .host ∧ s.todo = a :: [] ∧ ((a.sends s.rsp).isSome = true ∨ a = .receive false 1 ∨ a = .receive true 1) ∧ s.transport = false) :=
  ⟨rfl, rfl, by decide⟩

/-- An illegal request's sequence, and one whose calls fail. -/
theorem witness_EverySequenceEnds :
    ((p1 1 [.setSquareWave 6]).Before (.setSquareWave 6) [] ∧ (p1 1 [.setSquareWave 6]).Ending (HostOp.setSquareWave 6).events) ∧
    (let s : State := { p1 5 [.getTime] with env := List.replicate 5 failing }
     s.Before .getTime [] ∧ s.Ending (HostOp.getTime).events) :=
  ⟨⟨before_p1 .., ending_p1 ..⟩, ⟨rfl, rfl, rfl, rfl⟩, by decide, by
    intro e he
    have : e = failing := List.eq_of_mem_replicate (List.mem_of_mem_take he)
    simp [this, failing]⟩

theorem witness_LegalOperationRunsSafely :
    (p1 4 [.init]).Before .init [] ∧ (p1 4 [.init]).Returning (HostOp.init).events ∧ (HostOp.init).legal = true ∧
    (p1 4 [.init]).rsp.illegal = false ∧ (HostOp.setSquareWave 6).legal = false :=
  ⟨before_p1 .., returning_p1 .., by decide, by decide, by decide⟩

/-- Each of the three formats. -/
theorem witness_SetTimeThenGetTimeReturnsIt :
    let met := fun (v : TimeValue) =>
      (p1 6 [.setTime v, .getTime]).Before (.setTime v) (.getTime :: []) ∧ (p1 6 [.setTime v, .getTime]).Quiet 6 ∧
      v.seconds.toNat ≤ 59 ∧ v.minutes.toNat ≤ 59 ∧
      ((v.format = 0b00#2 ∧ v.hours.toNat ≤ 23) ∨
        ((v.format = 0b10#2 ∨ v.format = 0b11#2) ∧ 1 ≤ v.hours.toNat ∧ v.hours.toNat ≤ 12))
    met ⟨59, 59, 23, 0b00⟩ ∧ met ⟨0, 0, 1, 0b10⟩ ∧ met ⟨59, 0, 12, 0b11⟩ :=
  ⟨⟨before_p1 .., quiet_p1 .., by decide, by decide, by decide⟩, ⟨before_p1 .., quiet_p1 .., by decide, by decide, by decide⟩,
    before_p1 .., quiet_p1 .., by decide, by decide, by decide⟩

theorem witness_SetDateThenGetDateReturnsIt :
    let v : DateValue := ⟨7, 31, 12, 99⟩
    (p1 7 [.setDate v, .getDate]).Before (.setDate v) (.getDate :: []) ∧ (p1 7 [.setDate v, .getDate]).Quiet 7 ∧
    v.day.toNat ≤ 99 ∧ v.date.toNat ≤ 99 ∧ v.month.toNat ≤ 99 ∧ v.year.toNat ≤ 99 :=
  ⟨before_p1 .., quiet_p1 .., by decide, by decide, by decide, by decide⟩

/-- Aimed at the seconds and the control register, and at the first address past the general-purpose block. -/
theorem witness_RamReadOutsideRamShowsNoRegister :
    let met := fun (a : Byte) =>
      (p1 3 [.ramRead a 1]).Before (.ramRead a 1) [] ∧ (p1 3 [.ramRead a 1]).Returning (1 + 2) ∧
      (p1 3 [.ramRead a 1]).params.inRam a.toNat = false
    met 0x00 ∧ met 0x07 ∧ met 0x21 :=
  ⟨⟨before_p1 .., returning_p1 3 _, by decide⟩, ⟨before_p1 .., returning_p1 3 _, by decide⟩, before_p1 .., returning_p1 3 _, by decide⟩

end Sys2Proof.Tests
end

namespace Sys2Proof.Machine

/-! ### What a step leaves of the configuration (R10, R43) -/

@[simp] theorem State.gotBytes_params (s : State) (raw : Bool) (n : Nat) (ok : Bool) :
    (s.gotBytes raw n ok).params = s.params := by
  obtain ⟨h, -⟩ := gotBytes_frame s raw n ok
  exact h

@[simp] theorem State.gotBytes_transport (s : State) (raw : Bool) (n : Nat) (ok : Bool) :
    (s.gotBytes raw n ok).transport = s.transport := by
  obtain ⟨-, -, -, -, h, -⟩ := gotBytes_frame s raw n ok
  exact h

/-- One action of the host, a transport call among them, keeps the open parameters and the transport. -/
theorem ActionLeads.params_transport_eq {s t : State} (h : ActionLeads s t) :
    t.params = s.params ∧ t.transport = s.transport := by
  obtain ⟨-, -, ⟨_, _, rfl⟩ | ⟨_, _, rfl⟩⟩ | ⟨_, rfl⟩ | ⟨_, rfl⟩ | rfl := h <;> simp

/-- Settles O38, by the three moves a step can be: the block's answer, an action of the host, the beginning of a sequence. -/
theorem parametersAndTransportStay : Obligations.ParametersAndTransportStay := by
  intro s t h
  obtain ⟨-, rfl⟩ | ⟨-, _, _, -, -, hlead⟩ | ⟨-, _, _, -, -, rfl⟩ := step_cases h
  · exact ⟨rfl, rfl⟩
  · exact hlead.params_transport_eq
  · exact ⟨rfl, rfl⟩

end Sys2Proof.Machine

namespace Sys2Proof.Machine

/-! ### What every step keeps (R28, R92, R190) -/

/-- A call that ends keeps the invariant. -/
theorem State.Inv.afterCall {s : State} (h : s.Inv) (o : CallOutcome) : (s.afterCall o).Inv :=
  ⟨by simpa using h.memory, by simpa using h.params, by simpa using h.answer, by simpa using h.calls⟩

/-- One more call to `DEV_ADDR` keeps the record of calls good. -/
theorem calls_append_devAddr {cs : List Call} {c : Call} (h : ∀ c ∈ cs, c.device = devAddr) (hc : c.device = devAddr) :
    ∀ c' ∈ cs ++ [c], c'.device = devAddr := by
  intro c' hmem
  obtain hold | hnew := List.mem_append.1 hmem
  · exact h c' hold
  · rw [List.mem_singleton.1 hnew, hc]

/-- A send that ends keeps the invariant: the device's own changes and the frame keep the memory's form. -/
theorem State.Inv.sent {s : State} (h : s.Inv) (pa : Bool) (buf : List Byte) : (s.sent pa buf).Inv where
  memory := Memory.wf_tick _ _ (Device.wf_afterSend _ _ _ _ _ (Memory.wf_tick _ _ h.memory))
  params := by simpa using h.params
  answer := by simpa using h.answer
  calls := calls_append_devAddr h.calls rfl

/-- A receive that ends keeps the invariant: the device's own changes, before every byte too, keep the memory's form. -/
theorem State.Inv.gotBytes {s : State} (h : s.Inv) (raw : Bool) (n : Nat) (ok : Bool) : (s.gotBytes raw n ok).Inv := by
  obtain ⟨hparams, -, hrsp, -, -, -, -, -, -, hcalls⟩ := gotBytes_frame s raw n ok
  exact
    { memory := Memory.wf_tick _ _ (State.wf_takeBytes _ _ _ _ _ _ (Memory.wf_tick _ _ h.memory))
      params := hparams ▸ h.params
      answer := hrsp ▸ h.answer
      calls := hcalls ▸ calls_append_devAddr h.calls rfl }

/-- One action of the host, a transport call among them, keeps the invariant. -/
theorem ActionLeads.inv {s t : State} (h : ActionLeads s t) (hs : s.Inv) : t.Inv := by
  obtain ⟨-, -, ⟨pa, buf, rfl⟩ | ⟨raw, n, rfl⟩⟩ | ⟨_, rfl⟩ | ⟨_, rfl⟩ | rfl := h
  · exact (hs.sent pa buf).afterCall _
  · exact (hs.gotBytes raw n _).afterCall _
  · exact ⟨hs.memory, hs.params, hs.answer, hs.calls⟩
  · exact ⟨hs.memory, hs.params, hs.answer, hs.calls⟩
  · exact hs

/-- Settles O34, by the three moves a step can be: the block's answer is one the block can give, and the host's moves leave
the response alone. -/
theorem everyStepKeepsInvariant : Obligations.EveryStepKeepsInvariant := by
  intro s t hs h
  obtain ⟨-, rfl⟩ | ⟨-, _, _, -, -, hlead⟩ | ⟨-, _, _, -, -, rfl⟩ := step_cases h
  · exact ⟨hs.memory, hs.params, ⟨s.fetch, rfl⟩, hs.calls⟩
  · exact hlead.inv ⟨hs.memory, hs.params, hs.answer, hs.calls⟩
  · exact ⟨hs.memory, hs.params, hs.answer, hs.calls⟩

/-! ### The request word and its six fields (R90) -/

/-- The bits of a packed request, field by field. -/
theorem Request.getLsbD_word (r : Request) (i : Nat) :
    r.word.getLsbD i =
      if i < 8 then r.d0.getLsbD i
      else if i < 16 then r.d1.getLsbD (i - 8)
      else if i < 24 then r.d2.getLsbD (i - 16)
      else if i < 32 then r.d3.getLsbD (i - 24)
      else if i < 34 then r.fmt.getLsbD (i - 32)
      else r.op.getLsbD (i - 34) := by
  simp only [Request.word, BitVec.getLsbD_append]
  grind

/-- The fields of a packed request are the request's. -/
@[simp] theorem Request.ofWord_word (r : Request) : Request.ofWord r.word = r := by
  obtain ⟨op, fmt, d0, d1, d2, d3⟩ := r
  simp only [Request.ofWord, Request.mk.injEq]
  refine ⟨?_, ?_, ?_, ?_, ?_, ?_⟩ <;> ext i hi <;> rw [BitVec.getElem_extractLsb', Request.getLsbD_word] <;> grind

/-- The fields of a request word pack to the word. -/
@[simp] theorem Request.word_ofWord (w : ReqWord) : (Request.ofWord w).word = w := by
  simp only [Request.ofWord, Request.word]
  repeat rw [BitVec.extractLsb'_append_extractLsb'_eq_extractLsb' (by rfl)]
  exact BitVec.extractLsb'_eq_self

/-! ### The block's move -/

/-- The block's move on a word that decodes is that instruction's meaning. -/
theorem step_of_decode {s : State} {i : Instr} (h : s.mover = .block) (hi : decode s.fetch = .instr i) :
    step s = exec i s.handBack := by
  simp only [step, h, hi]

/-- The instruction a table row's word stands for is the one its request word decodes to. -/
theorem decodeTableWord_eq_some {n w : Nat} {i : Instr} :
    decodeTableWord n w = some i ↔ decode (tableWord w) = .instr i := by
  unfold decodeTableWord
  cases decode (tableWord w) <;> simp

/-- Settles O8: the wires carry the placed word, so the block decodes `i`. -/
theorem placedWordRunsInNextStep : Obligations.PlacedWordRunsInNextStep := by
  intro s n w i hw
  have hfetch : (s.withFetchWord n w).fetch = tableWord w := Request.word_ofWord _
  exact step_of_decode (State.mover_of_block rfl) (hfetch ▸ decodeTableWord_eq_some.1 hw)

/-- Settles O9: the block's move answers `codecResponse` of the word on the wires. -/
theorem blockMoveIsTheCodecFunction : Obligations.BlockMoveIsTheCodecFunction :=
  fun _ h => ⟨_, step_of_block h, rfl, rfl⟩

/-- Settles O10: the answer is a function of the word on the wires. -/
theorem responseDependsOnRequestAlone : Obligations.ResponseDependsOnRequestAlone := by
  intro s₁ s₂ h₁ h₂ hreq
  refine ⟨_, _, step_of_block h₁, step_of_block h₂, ?_⟩
  simp only [State.respond_rsp, State.fetch, hreq]

/-- Settles O26: a meaning answers with another response of the same state. -/
theorem everyOperationChangesOnlyTheResponse : Obligations.EveryOperationChangesOnlyTheResponse :=
  fun i s => ⟨_, exec_eq_respond i s, rfl, fun _ => rfl⟩

/-! ### The shape of a response -/

/-- What the fields of every response the block can give have in common (R24, R70, R98, R102). -/
structure Response.Shaped (r : Response) : Prop where
  nbytes  : r.nbytes.toNat ≤ 4
  regAddr : r.regAddr = 0x00 ∨ r.regAddr = 0x03 ∨ r.regAddr = 0x07
  fmtO    : r.fmtO ≠ 0b01
  halted  : r.halted = r.wrReq
  illegal : r.illegal = true → r = Response.illegalAnswer

theorem Response.shaped_illegalAnswer : Response.illegalAnswer.Shaped :=
  ⟨by decide, by decide, by decide, rfl, fun _ => rfl⟩

/-- No format's code is the reserved one (R98). -/
theorem formatCode_ne_reserved (f : Format) : formatCode f ≠ 0b01 := by cases f <;> decide

/-- A response with `illegal` = 0 has the shape by its constants. -/
theorem Response.shaped_of_legal {h : Bool} {f : BitVec 2} {n : BitVec 3} {a q0 q1 q2 q3 : Byte} (hn : n.toNat ≤ 4)
    (ha : a = 0x00 ∨ a = 0x03 ∨ a = 0x07) (hf : f ≠ 0b01) : Response.Shaped ⟨false, h, h, f, n, a, q0, q1, q2, q3⟩ :=
  ⟨hn, ha, hf, rfl, nofun⟩

/-- The shape, operation by operation: an illegal operand gets the one illegal answer, and no other answer is illegal. -/
theorem Response.shaped_answerOf (i : Instr) : (answerOf i).Shaped := by
  cases i with
  | b2bcd | bcd2b => exact Response.shaped_of_legal (by decide) (.inl rfl) (by decide)
  | enct sec min hr fmt =>
    simp only [answerOf, answerEnct]
    split
    · exact Response.shaped_illegalAnswer
    · exact Response.shaped_of_legal (by decide) (.inl rfl) (by decide)
  | dect b0 b1 b2 => exact Response.shaped_of_legal (by decide) (.inl rfl) (formatCode_ne_reserved _)
  | encd | decd => exact Response.shaped_of_legal (by decide) (.inr (.inl rfl)) (by decide)
  | encsqw sel =>
    simp only [answerOf, answerEncsqw]
    split
    · exact Response.shaped_illegalAnswer
    · exact Response.shaped_of_legal (by decide) (.inr (.inr rfl)) (by decide)
  | chkhalt b => exact Response.shaped_of_legal (by decide) (.inl rfl) (by decide)

/-- Every response the block can give has the shape. -/
theorem Response.isAnswer.shaped {r : Response} (h : r.isAnswer) : r.Shaped := by
  obtain ⟨w, rfl⟩ := h
  unfold codecResponse
  split
  · exact Response.shaped_answerOf _
  · exact Response.shaped_illegalAnswer

/-- With at most four payload bytes the frame holds them all, after the address (R104). -/
theorem Response.length_frame {r : Response} (h : r.nbytes.toNat ≤ 4) : r.frame.length = r.nbytes.toNat + 1 := by
  simp [Response.frame, Response.payload, h]

/-- Settles O36: the sampled response is one the block can give. -/
theorem responseShape : Obligations.ResponseShape := by
  intro s hs
  have hr := hs.answer.shaped
  exact ⟨hr.nbytes, Response.length_frame hr.nbytes, hr.regAddr, hr.fmtO, hr.halted,
    fun hi => hr.illegal hi ▸ illegalAnswer_word⟩

/-! ### Where the digits stand in a time register's byte (R31, R33) -/

/-- The units digit of a BCD byte. -/
theorem b2bcd_units (v : Byte) : ((b2bcd v).extractLsb' 0 4).toNat = v.toNat % 10 := by
  simp only [BitVec.extractLsb'_toNat, b2bcd_toNat, Nat.shiftRight_zero]
  omega

/-- The tens digit of a BCD byte, or as many of its bits as a register's field has. -/
theorem b2bcd_tens (v : Byte) {k : Nat} (hk : k ≤ 4) :
    ((b2bcd v).extractLsb' 4 k).toNat = v.toNat / 10 % 2 ^ k := by
  have hdvd : 2 ^ k ∣ 2 ^ 4 := Nat.pow_dvd_pow 2 hk
  have htens : (v.toNat / 10 % 16 * 16 + v.toNat % 10) / 2 ^ 4 = v.toNat / 10 % 2 ^ 4 := by omega
  rw [BitVec.extractLsb'_toNat, b2bcd_toNat, Nat.shiftRight_eq_div_pow, htens, Nat.mod_mod_of_dvd _ hdvd]

/-- Bits `lo` to `lo + n - 1` of a byte pass a mask that is 1 there. -/
theorem extractLsb'_and_of_ones {lo n : Nat} (b mask : Byte) (h : mask.extractLsb' lo n = BitVec.allOnes n) :
    (b &&& mask).extractLsb' lo n = b.extractLsb' lo n := by
  rw [BitVec.extractLsb'_and, h, BitVec.and_allOnes]

/-- The forced bits 7 to 5 of the hours byte leave the five bits below alone (R142). -/
theorem encHr_getLsbD_low (h : Byte) (f : Format) {i : Nat} (hi : i < 5) :
    (encHr h f).getLsbD i = (b2bcd h).getLsbD i := by
  have hmask : maskH12.getLsbD i = true ∧ maskPm.getLsbD i = true := by interval_cases i <;> decide
  have hset : setH12.getLsbD i = false ∧ setH12Pm.getLsbD i = false := by interval_cases i <;> decide
  cases f <;> simp [encHr, hmask, hset]

/-- So a field inside those five bits is the BCD byte's. -/
theorem encHr_extractLsb'_low (h : Byte) (f : Format) {lo n : Nat} (hn : lo + n ≤ 5) :
    (encHr h f).extractLsb' lo n = (b2bcd h).extractLsb' lo n := by
  ext i hi
  rw [BitVec.getElem_extractLsb', BitVec.getElem_extractLsb', encHr_getLsbD_low h f (by omega)]

/-- Bits 3:0 of the hours byte are the units digit. -/
theorem encHr_units (h : Byte) (f : Format) : ((encHr h f).extractLsb' 0 4).toNat = h.toNat % 10 := by
  rw [encHr_extractLsb'_low h f (by decide), b2bcd_units]

/-- Bit 4 of the hours byte is the low bit of the tens digit, all of it in a 12-hour time. -/
theorem encHr_tens_low (h : Byte) (f : Format) : ((encHr h f).extractLsb' 4 1).toNat = h.toNat / 10 % 2 := by
  rw [encHr_extractLsb'_low h f (by decide), b2bcd_tens h (by decide), pow_one]

/-- In the 24-hour format bits 5:4 are the tens digit. -/
theorem encHr_h24_tens (h : Byte) : ((encHr h .h24).extractLsb' 4 2).toNat = h.toNat / 10 % 4 :=
  (congrArg _ (extractLsb'_and_of_ones _ _ rfl)).trans (b2bcd_tens h (by decide))

/-- Bit 6 of the hours byte is 1 exactly in the 12-hour formats. -/
theorem encHr_bit6 (h : Byte) (f : Format) : (encHr h f).getLsbD 6 = decide (f ≠ .h24) := by
  cases f <;> simp [encHr, maskH12, setH12, maskPm, setH12Pm]

/-- In the 12-hour formats bit 5 is 1 exactly for PM. -/
theorem encHr_bit5 (h : Byte) {f : Format} (hf : f ≠ .h24) : (encHr h f).getLsbD 5 = decide (f = .h12pm) := by
  cases f with
  | h24 => exact absurd rfl hf
  | h12am | h12pm => simp [encHr, setH12, maskPm, setH12Pm]

/-- The mask of the seconds byte reaches bit 7 alone (R140). -/
theorem encSec_units (s : Byte) : ((encSec s).extractLsb' 0 4).toNat = s.toNat % 10 :=
  (congrArg _ (extractLsb'_and_of_ones _ _ rfl)).trans (b2bcd_units s)

theorem encSec_tens (s : Byte) : ((encSec s).extractLsb' 4 3).toNat = s.toNat / 10 % 8 :=
  (congrArg _ (extractLsb'_and_of_ones _ _ rfl)).trans (b2bcd_tens s (by decide))

theorem encSec_bit7 (s : Byte) : (encSec s).getLsbD 7 = false := by simp [encSec, maskCh]

/-- A legal format code's answer (R150). -/
theorem exec_enct_of_format {fmt : BitVec 2} {f : Format} (hf : formatOfCode fmt = some f) (sec min hr : Byte)
    (s : State) :
    exec (.enct sec min hr fmt) s =
      .next (s.respond ⟨false, false, false, 0, 3, 0x00, encSec sec, encMin min, encHr hr f, 0⟩) := by
  simp only [exec_eq_respond, answerOf, answerEnct, hf]
  rfl

/-- Every code but the reserved one is a format's (R98). -/
theorem formatOfCode_of_ne_reserved {fmt : BitVec 2} (h : fmt ≠ 0b01#2) :
    ∃ f, formatOfCode fmt = some f ∧ fmt = formatCode f := by
  obtain rfl | rfl | rfl | rfl := format_code_cases fmt
  · exact absurd rfl h
  · exact ⟨.h24, rfl, rfl⟩
  · exact ⟨.h12am, rfl, rfl⟩
  · exact ⟨.h12pm, rfl, rfl⟩

/-- Settles O33, format by format: the forced bits stand beside the digits, and a digit in range fits its field. -/
theorem digitFieldsOfTimeRegisters : Obligations.DigitFieldsOfTimeRegisters := by
  intro sec min hr fmt s hfmt hsec
  obtain ⟨f, hf, rfl⟩ := formatOfCode_of_ne_reserved hfmt
  refine ⟨_, exec_enct_of_format hf sec min hr s, encSec_bit7 sec, ?_, encSec_units sec, ?_, ?_⟩
  · exact (encSec_tens sec).trans (Nat.mod_eq_of_lt (by omega))
  · intro h24 hhr
    obtain rfl : f = .h24 := by cases f <;> simp_all [formatCode]
    exact ⟨encHr_bit6 hr _, (encHr_h24_tens hr).trans (Nat.mod_eq_of_lt (by omega)), encHr_units hr _⟩
  · intro h12 _ hhr
    have hne : f ≠ .h24 := fun h => h12 (h ▸ rfl)
    refine ⟨(encHr_bit6 hr f).trans (decide_eq_true hne), ?_,
      (encHr_tens_low hr f).trans (Nat.mod_eq_of_lt (by omega)), encHr_units hr f⟩
    simp only [State.respond_rsp, encHr_bit5 hr hne, decide_eq_true_eq]
    cases f <;> simp [formatCode]

end Sys2Proof.Machine

namespace Sys2Proof.Machine

/-- The response to a request whose fields decode. -/
theorem codecResponse_word {r : Request} {i : Instr} (h : decodeRequest r = .instr i) :
    codecResponse r.word = answerOf i := by
  simp only [codecResponse, decode, Request.ofWord_word, h]

/-! ### Calls in a quiet environment

Where every call returns and the device changes nothing on its own, the state after a call is written out: the events used
up, the record of the call, and what the call does to the device. -/

/-- Using up an event of a quiet environment drops it from the script, and what follows it is quiet. -/
theorem State.Quiet.dropEvent {s : State} {n : Nat} (h : s.Quiet (n + 1)) :
    s.dropEvent = { s with env := s.env.tail } ∧ ({ s with env := s.env.tail } : State).Quiet n := by
  obtain ⟨-, -, hrest⟩ := h.head
  have hdrop : s.dropEvent = { s with env := s.env.tail } := by
    cases henv : s.env with
    | nil => exact absurd h.1 (by simp [henv])
    | cons e es => simp [State.dropEvent, henv]
  exact ⟨hdrop, hdrop ▸ hrest⟩

theorem State.Quiet.mono {s : State} {k n : Nat} (h : s.Quiet n) (hk : k ≤ n) : s.Quiet k :=
  ⟨hk.trans h.1, fun e he => h.2 e (List.take_subset_take_left _ hk he)⟩

/-- What is quiet for longer than some events stays quiet after them. -/
theorem State.Quiet.after {s t : State} {k n : Nat} (h : s.Quiet (k + n)) (henv : t.env = s.env.drop k) : t.Quiet n := by
  obtain ⟨hlen, hev⟩ := h
  refine ⟨by rw [henv, List.length_drop]; omega, fun e he => hev e ?_⟩
  rw [henv, List.take_drop] at he
  exact List.mem_of_mem_drop he

/-- A frame sent in a quiet environment arrives, and that is all (R29, R62, R190). -/
theorem sent_of_quiet {s : State} {n : Nat} (hq : s.Quiet (n + 1)) (buf : List Byte) :
    s.sent false buf = { s with
      env := s.env.tail, dev := s.dev.takeFrame s.params s.event buf, calls := s.calls ++ [.send devAddr buf] } := by
  obtain ⟨hret, ⟨hbefore, hafter⟩, -⟩ := hq.head
  obtain ⟨hdrop, -⟩ := hq.dropEvent
  simp [State.sent, hdrop, hbefore, hafter, Device.afterSend, hret]

/-- The bytes taken in a quiet environment are what the registers hold, and the registers keep them (R193). -/
theorem takeBytes_of_quiet (raw : Bool) (start n : Nat) : ∀ (i : Nat) (s : State), s.Quiet n →
    (∀ j < n, s.params.reaches raw start (start + (i + j)) = true) →
    State.takeBytes raw true start n i s =
      ((List.range' (start + i) n).map s.dev.regs.byte, { s with env := s.env.drop n }) := by
  induction n with
  | zero => intro i s _ _; rfl
  | succ n ih =>
    intro i s hq hreach
    obtain ⟨-, ⟨hbefore, -⟩, -⟩ := hq.head
    obtain ⟨hdrop, hrest⟩ := hq.dropEvent
    have hhead : s.params.reaches raw start (start + i) = true := hreach 0 (Nat.succ_pos n)
    have htail := ih (i + 1) { s with env := s.env.tail } hrest fun j hj => by
      rw [show i + 1 + j = i + (j + 1) by omega]
      exact hreach (j + 1) (by omega)
    simp only [State.takeBytes, hbefore, Device.tick_nil, hdrop, htail, if_true, content_inside _ hhead]
    simp [List.range'_succ, Nat.add_assoc]

/-- A receive in a quiet environment delivers what the registers hold, and only the pointer moves (R42, R193). -/
theorem gotBytes_of_quiet {s : State} {raw : Bool} {n : Nat} (hq : s.Quiet (n + 1))
    (hreach : ∀ j < n, s.params.reaches raw s.dev.ptr.toNat (s.dev.ptr.toNat + j) = true) :
    s.gotBytes raw n true = { s with
      env := s.env.drop (n + 1)
      received := (List.range' s.dev.ptr.toNat n).map s.dev.regs.byte
      calls := s.calls ++ [.receive devAddr n ((List.range' s.dev.ptr.toNat n).map s.dev.regs.byte)]
      dev := { s.dev with ptr := pointerAfter s.params s.event raw s.dev.ptr.toNat n } } := by
  obtain ⟨hret, ⟨hbefore, hafter⟩, -⟩ := hq.head
  obtain ⟨hdrop, hrest⟩ := hq.dropEvent
  have htake := takeBytes_of_quiet raw s.dev.ptr.toNat n 0 { s with env := s.env.tail } hrest (by simpa using hreach)
  simp [State.gotBytes, hdrop, hbefore, hafter, htake]

/-! ### A sequence, action by action, in a quiet environment -/

/-- The host is about to do `todo`, with its transport and at least `n` quiet events to come. -/
structure State.Doing (s : State) (todo : List HostAct) (n : Nat) : Prop where
  turn      : s.turn = .host
  todo      : s.todo = todo
  transport : s.transport = true
  quiet     : s.Quiet n

/-- A sequence begun is about to do its expansion. -/
theorem State.Before.doing {s : State} {op : HostOp} {rest : List HostOp} {n : Nat} (h : s.Before op rest)
    (hq : s.Quiet n) : (s.begin op rest).Doing op.expand n :=
  ⟨h.turn, rfl, h.transport, hq⟩

section
variable {s : State} {more : List HostAct} {n : Nat}

/-- The step of an action that sends a frame: a pointer or an image. -/
theorem State.Doing.step_send {a : HostAct} {buf : List Byte} (h : s.Doing (a :: more) (n + 1))
    (ha : a.sends s.rsp = some buf) (hframe : a.payloadAlone = false) :
    ∃ t, step s = .next t ∧ t.Doing more n ∧ t.returned = s.returned ∧ t.rsp = s.rsp ∧
      t.dev = s.dev.takeFrame s.params s.event buf := by
  have hq : ({ s with todo := more } : State).Quiet (n + 1) := h.quiet
  have hrun := run_of_sends (s := { s with todo := more }) ha
  rw [hframe, send_of_ends (s := { s with todo := more }) false buf h.transport hq.head.1 (by decide),
    State.afterCall_of_returns, sent_of_quiet hq] at hrun
  exact ⟨_, (step_acts h.turn h.todo).trans hrun, ⟨h.turn, rfl, h.transport, hq.dropEvent.2⟩, rfl, rfl, rfl⟩

/-- The step of a receive whose bytes the transfer reaches. -/
theorem State.Doing.step_receive {raw : Bool} {m : Nat} (h : s.Doing (.receive raw m :: more) (m + 1 + n))
    (hreach : ∀ j < m, s.params.reaches raw s.dev.ptr.toNat (s.dev.ptr.toNat + j) = true) :
    ∃ t, step s = .next t ∧ t.Doing more n ∧ t.returned = s.returned ∧ t.dev.regs = s.dev.regs ∧
      t.received = (List.range' s.dev.ptr.toNat m).map s.dev.regs.byte := by
  have hq : ({ s with todo := more } : State).Quiet (m + 1) := h.quiet.mono (by omega)
  have hrun := receive_of_ends (s := { s with todo := more }) raw m h.transport hq.head.1 (by decide)
  rw [State.afterCall_of_returns, decide_eq_true rfl, gotBytes_of_quiet hq hreach] at hrun
  exact ⟨_, (step_acts h.turn h.todo).trans hrun, ⟨h.turn, rfl, h.transport, h.quiet.after rfl⟩, rfl, rfl, rfl⟩

/-- The two steps in which the host presents the bytes received and the block answers them. -/
theorem State.Doing.steps_presentReceived {op : BitVec 4} {i : Instr} (h : s.Doing (.presentReceived op :: more) n)
    (hi : decodeRequest (Request.ofBytes op s.received) = .instr i) :
    ∃ u t, step s = .next u ∧ step u = .next t ∧ t.Doing more n ∧ t.returned = s.returned ∧ t.dev = s.dev ∧
      t.rsp = answerOf i :=
  ⟨_, _, step_acts h.turn h.todo, step_answers rfl, ⟨rfl, rfl, h.transport, h.quiet⟩, rfl, rfl, codecResponse_word hi⟩

end

/-! ### INIT on a halted clock (R47, R195) -/

/-- Two registers of the eight are in one region, whatever the open parameters are. -/
theorem sameRegion_registers (p : Params) {a b : Nat} (ha : isRegister a = true) (hb : isRegister b = true) :
    p.sameRegion a b = true := by
  simp [Params.sameRegion, ha, hb]

/-- A payload that stays among consecutive registers is stored from the frame's address on (R62). -/
theorem takeFrame_regs {p : Params} {a v : Byte} {vs : List Byte}
    (h : p.sameRegion a.toNat (a.toNat + vs.length) = true) (e : EnvEvent) (d : Device) :
    (d.takeFrame p e (a :: v :: vs)).regs = d.regs.storeFrom a.toNat (v :: vs) := by
  simp [Device.takeFrame, h]

/-- On a halted clock the block asks for the write of 0x00 to the seconds register (R174). -/
theorem writeImageIfRequested_sends_of_halted {b : Byte} (hb : b.getLsbD 7 = true) :
    HostAct.writeImageIfRequested.sends (answerChkhalt b) = some [regSec, 0x00] := by
  have hwr : (answerChkhalt b).wrReq = true := hb
  simp only [HostAct.sends, hwr]
  rfl

/-- `init` on a halted clock, step by step: the pointer, the byte of register 0x00, the block's test of its bit 7, the
write of 0x00, and `halted` returned. -/
theorem run_init_of_halted {s : State} {rest : List HostOp} (h : s.Before .init rest) (hq : s.Quiet 4)
    (hhalted : (s.dev.regs.byte 0x00).getLsbD 7 = true) :
    ∃ t, run 7 s = .next t ∧ t.returned = s.returned ++ [.halted true] ∧ t.dev.regs = s.dev.regs.write 0x00 0x00 := by
  have hreach (p : Params) : ∀ j < 1, p.reaches false 0 (0 + j) = true := fun j hj =>
    sameRegion_registers p rfl (by simp [isRegister, regCtrl]; omega)
  obtain ⟨s₂, hstep₁, hdo₂, hret₂, -, hdev₂⟩ := (h.doing hq).step_send rfl rfl
  obtain ⟨s₃, hstep₂, hdo₃, hret₃, hregs₃, hgot⟩ := hdo₂.step_receive (n := 1) (by rw [hdev₂]; exact hreach _)
  have hchk : decodeRequest (Request.ofBytes opChkhalt s₃.received) = .instr (.chkhalt (s.dev.regs.byte 0x00)) := by
    rw [hgot, hdev₂]; rfl
  obtain ⟨s₄, s₅, hstep₃, hstep₄, hdo₅, hret₅, hdev₅, hrsp₅⟩ := hdo₃.steps_presentReceived hchk
  have hsends : HostAct.writeImageIfRequested.sends s₅.rsp = some [regSec, 0x00] := by
    rw [hrsp₅]; exact writeImageIfRequested_sends_of_halted hhalted
  obtain ⟨s₆, hstep₅, hdo₆, hret₆, hrsp₆, hdev₆⟩ := hdo₅.step_send hsends rfl
  have hrun : run 7 s = .next (({ s₆ with todo := [] } : State).endSequence (.halted s₆.rsp.halted)) := by
    rw [run_succ 6 (step_begins h), run_succ 5 hstep₁, run_succ 4 hstep₂, run_succ 3 hstep₃, run_succ 2 hstep₄,
      run_succ 1 hstep₅, run_succ 0 (step_acts hdo₆.turn hdo₆.todo)]
    rfl
  have hflag : s₆.rsp.halted = true := by rw [hrsp₆, hrsp₅]; exact hhalted
  refine ⟨_, hrun, ?_, ?_⟩
  · simp [hflag, hret₆, hret₅, hret₃, hret₂]
  · change s₆.dev.regs = _
    rw [hdev₆, takeFrame_regs (sameRegion_registers _ rfl rfl), hdev₅, hregs₃, hdev₂]
    rfl

/-- Settles O44: the one write of `init` is the only change to the registers. -/
theorem initRestartsHaltedClock : Obligations.InitRestartsHaltedClock := by
  intro s rest hbefore hquiet hhalted
  obtain ⟨t, hrun, hret, hregs⟩ := run_init_of_halted hbefore hquiet hhalted
  refine ⟨t, hrun, hret, ?_, ?_, fun a ha => ?_⟩
  · rw [hregs]; exact Memory.read_write_same ..
  · simp [Device.oscillatorStopped, hregs, regSec, chBit]
  · rw [hregs, Memory.read_write_other _ _ ha]

end Sys2Proof.Machine

namespace Sys2Proof.Machine

/-! ### What a step does to the device and to the record of calls (R60, R72) -/

/-- An action either leaves the record and the device alone, or is one transport call, which the record then ends with. -/
theorem ActionLeads.still_or_one_call {s t : State} (h : ActionLeads s t) :
    (t.calls = s.calls ∧ t.dev = s.dev) ∨ (s.transport = true ∧ ∃ c, t.calls = s.calls ++ [c]) := by
  obtain ⟨htr, -, ⟨pa, buf, rfl⟩ | ⟨raw, n, rfl⟩⟩ | ⟨_, rfl⟩ | ⟨_, rfl⟩ | rfl := h
  · exact .inr ⟨htr, _, State.afterCall_calls ..⟩
  · exact .inr ⟨htr, _, State.afterCall_calls ..⟩
  · exact .inl ⟨rfl, rfl⟩
  · exact .inl ⟨rfl, rfl⟩
  · exact .inl ⟨rfl, rfl⟩

/-- Settles O37, by the three moves a step can be: the block's answer and the beginning of a sequence touch neither. -/
theorem deviceChangesOnlyInHostCalls : Obligations.DeviceChangesOnlyInHostCalls := by
  intro s t h
  obtain ⟨-, rfl⟩ | ⟨hmover, _, _, -, -, hlead⟩ | ⟨-, _, _, -, -, rfl⟩ := step_cases h
  · exact .inl ⟨rfl, rfl⟩
  · exact hlead.still_or_one_call.imp_right fun ⟨htr, hcall⟩ => ⟨hmover, htr, hcall⟩
  · exact .inl ⟨rfl, rfl⟩

/-! ### A register write (R62, R192) -/

/-- A frame sent in a quiet environment returns. -/
theorem send_of_quiet {s : State} {n : Nat} (htr : s.transport = true) (hq : s.Quiet (n + 1)) (pa : Bool)
    (buf : List Byte) : s.send pa buf = .next (s.sent pa buf) := by
  rw [send_of_ends pa buf htr hq.head.1 (by decide), State.afterCall_of_returns]

/-- Settles O40: the frame arrives whole, and its payload is stored from its address on. -/
theorem registerWriteStoresPayload : Obligations.RegisterWriteStoresPayload := by
  intro s addr v htr hq hv hregion
  obtain ⟨w, ws, rfl⟩ := List.exists_cons_of_ne_nil hv
  have hregs : (s.sent false (addr :: w :: ws)).dev.regs = s.dev.regs.storeFrom addr.toNat (w :: ws) := by
    rw [sent_of_quiet hq]
    exact takeFrame_regs hregion _ _
  refine ⟨_, send_of_quiet htr hq _ _, rfl, fun i hi => ?_, fun a ha => ?_⟩
  · rw [hregs, Memory.read_storeFrom _ _ _ _ hi]
  · rw [hregs, Memory.read_storeFrom_other _ _ _ _ ha]

/-! ### How many events a call uses up (log 8) -/

theorem State.dropEvent_env (s : State) : s.dropEvent.env = s.env.tail := by
  cases h : s.env <;> simp [State.dropEvent, h]

/-- Each byte taken uses up one event. -/
theorem takeBytes_env (raw ok : Bool) (start n : Nat) : ∀ (i : Nat) (s : State),
    (State.takeBytes raw ok start n i s).2.env = s.env.drop n := by
  induction n with
  | zero => exact fun _ _ => rfl
  | succ n ih =>
    intro i s
    refine (ih (i + 1) _).trans ?_
    simp [State.dropEvent_env]

/-- A receive uses up one event for the call and one for each byte. -/
theorem State.gotBytes_env (s : State) (raw : Bool) (n : Nat) (ok : Bool) :
    (s.gotBytes raw n ok).env = s.env.drop (n + 1) := by
  refine (takeBytes_env raw ok _ n 0 _).trans ?_
  simp [State.dropEvent_env]

/-- Where no call to come hangs, the next one does not. -/
theorem State.Ending.head {s : State} {n : Nat} (h : s.Ending (n + 1)) : s.event.outcome ≠ .hangs := by
  obtain ⟨hlen, hev⟩ := h
  cases henv : s.env with
  | nil => simp [henv] at hlen
  | cons e es => exact State.event_of_env_cons s henv ▸ hev e (by simp [henv])

/-- After some of the events in which no call hangs, no call hangs in the others. -/
theorem State.Ending.after {s t : State} {k n : Nat} (h : s.Ending (k + n)) (henv : t.env = s.env.drop k) :
    t.Ending n := by
  obtain ⟨hlen, hev⟩ := h
  refine ⟨by rw [henv, List.length_drop]; omega, fun e he => hev e ?_⟩
  rw [henv, List.take_drop] at he
  exact List.mem_of_mem_drop he

/-- Of the events in which no call hangs, fewer may be counted. -/
theorem State.Ending.mono {s : State} {k n : Nat} (h : s.Ending n) (hk : k ≤ n) : s.Ending k :=
  ⟨hk.trans h.1, fun e he => h.2 e (List.take_subset_take_left _ hk he)⟩

/-! ### Every sequence ends (R72, R277)

A sequence is a list of actions, one of which ends it. Each action takes a fixed number of steps and uses up a fixed number
of events, and after it the sequence has either ended or has one action less to do. -/

/-- The steps of an action, the block's answer to a request among them. -/
def HostAct.steps : HostAct → Nat
  | .present _ | .presentReceived _ => 2
  | .pointer _ | .payload _ | .receive _ _ | .writeImage | .writeImageIfRequested | .giveResponse | .giveHalted | .giveTime
  | .giveDate | .giveBytes | .giveNothing => 1

/-- The most events an action uses up. -/
def HostAct.events : HostAct → Nat
  | .pointer _ | .payload _ | .writeImage | .writeImageIfRequested => 1
  | .receive _ n => n + 1
  | .present _ | .presentReceived _ | .giveResponse | .giveHalted | .giveTime | .giveDate | .giveBytes | .giveNothing => 0

/-- The actions that end a sequence, whatever became of it. -/
def HostAct.gives : HostAct → Bool
  | .giveResponse | .giveHalted | .giveTime | .giveDate | .giveBytes | .giveNothing => true
  | .pointer _ | .payload _ | .receive _ _ | .present _ | .presentReceived _ | .writeImage | .writeImageIfRequested => false

/-- An operation's steps are its beginning and those of its actions. -/
theorem HostOp.steps_eq_sum (op : HostOp) : op.steps = (op.expand.map HostAct.steps).sum + 1 := by cases op <;> rfl

/-- An operation's events are those of its actions. -/
theorem HostOp.events_eq_sum (op : HostOp) : op.events = (op.expand.map HostAct.events).sum := by
  cases op with
  | ramRead address length => simp [HostOp.events, HostOp.expand, HostAct.events]; omega
  | _ => rfl

/-- Every operation's expansion ends itself. -/
theorem HostOp.expand_any_gives (op : HostOp) : op.expand.any HostAct.gives = true := by cases op <;> rfl

/-- Within `m` steps of `s` its sequence is over: nothing of it is left to do, the host is to move with `rest` of its program
standing, and one value was returned after `rs`. -/
def State.EndsWithin (s : State) (m : Nat) (rest : List HostOp) (rs : List HostResult) : Prop :=
  ∃ k t x, k ≤ m ∧ run k s = .next t ∧ t.todo = [] ∧ t.program = rest ∧ t.turn = .host ∧ t.returned = rs ++ [x]

/-- The host is amid a sequence: `todo` is left to do, and in the next `n` events no call hangs. -/
structure State.Amid (s : State) (todo : List HostAct) (n : Nat) (rest : List HostOp) (rs : List HostResult) : Prop where
  turn      : s.turn = .host
  todo      : s.todo = todo
  transport : s.transport = true
  ending    : s.Ending n
  program   : s.program = rest
  returned  : s.returned = rs

section
variable {s t : State} {a : HostAct} {more : List HostAct} {n m : Nat} {rest : List HostOp} {rs : List HostResult}

theorem State.EndsWithin.of_step (h : step s = .next t) (ht : t.EndsWithin m rest rs) : s.EndsWithin (m + 1) rest rs := by
  obtain ⟨k, u, x, hk, hrun, hu⟩ := ht
  exact ⟨k + 1, u, x, Nat.succ_le_succ hk, (run_succ k h).trans hrun, hu⟩

/-- A sequence that ends here ends within any number of steps. -/
theorem State.Amid.endSequence_endsWithin (h : s.Amid more n rest rs) (x : HostResult) :
    (s.endSequence x).EndsWithin m rest rs :=
  ⟨0, _, x, Nat.zero_le m, rfl, rfl, h.program, h.turn, congrArg (· ++ [x]) h.returned⟩

/-- After a call the sequence goes on, or a failure has ended it (R191, R231). -/
theorem State.Amid.afterCall_endsWithin (h : s.Amid more n rest rs) (hgo : s.EndsWithin m rest rs) (o : CallOutcome) :
    (s.afterCall o).EndsWithin m rest rs := by
  unfold State.afterCall
  split
  · exact h.endSequence_endsWithin _
  · exact hgo

/-- The host does its next action. -/
theorem State.Amid.endsWithin_of_run (h : s.Amid (a :: more) n rest rs)
    (hrun : a.run { s with todo := more } = .next t) (ht : t.EndsWithin m rest rs) : s.EndsWithin (m + 1) rest rs :=
  .of_step ((step_acts h.turn h.todo).trans hrun) ht

/-- The sequence ends in its next action. -/
theorem State.Amid.endsWithin_of_ends (h : s.Amid (a :: more) n rest rs) {x : HostResult}
    (ha : a.run { s with todo := more } = .next (({ s with todo := more } : State).endSequence x)) :
    s.EndsWithin (m + 1) rest rs :=
  have hended : ({ s with todo := more } : State).Amid more n rest rs :=
    ⟨h.turn, rfl, h.transport, h.ending, h.program, h.returned⟩
  h.endsWithin_of_run ha (hended.endSequence_endsWithin x)

variable (hmore : ∀ t : State, t.Amid more n rest rs → t.EndsWithin m rest rs)
include hmore

theorem State.Amid.endsWithin_of_sends {buf : List Byte} (h : s.Amid (a :: more) (1 + n) rest rs)
    (ha : a.sends s.rsp = some buf) : s.EndsWithin (m + 1) rest rs := by
  have hends : ({ s with todo := more } : State).Ending (n + 1) := Nat.add_comm 1 n ▸ h.ending
  have hrun := (run_of_sends (s := { s with todo := more }) ha).trans
    (send_of_ends a.payloadAlone buf h.transport rfl hends.head)
  have hsent : (({ s with todo := more } : State).sent a.payloadAlone buf).Amid more n rest rs :=
    { turn      := by simpa using h.turn
      todo      := by simp
      transport := by simpa using h.transport
      ending    := h.ending.after (by simp [State.dropEvent_env])
      program   := by simpa using h.program
      returned  := by simpa using h.returned }
  exact h.endsWithin_of_run hrun (hsent.afterCall_endsWithin (hmore _ hsent) _)

theorem State.Amid.endsWithin_of_receive {raw : Bool} {len : Nat}
    (h : s.Amid (.receive raw len :: more) (len + 1 + n) rest rs) : s.EndsWithin (m + 1) rest rs := by
  have hends : ({ s with todo := more } : State).Ending (len + n + 1) := Nat.add_right_comm len 1 n ▸ h.ending
  have hrun := receive_of_ends (s := { s with todo := more }) raw len h.transport rfl hends.head
  have hgot (ok : Bool) : (({ s with todo := more } : State).gotBytes raw len ok).Amid more n rest rs := by
    obtain ⟨-, -, -, hturn, htr, hprog, htodo, hret, -, -⟩ := gotBytes_frame { s with todo := more } raw len ok
    exact ⟨hturn.trans h.turn, htodo, htr.trans h.transport, h.ending.after (State.gotBytes_env ..),
      hprog.trans h.program, hret.trans h.returned⟩
  exact h.endsWithin_of_run hrun ((hgot _).afterCall_endsWithin (hmore _ (hgot _)) _)

/-- A request is put on the wires, and the block answers it. -/
theorem State.Amid.endsWithin_of_presents {r : Request} (h : s.Amid (a :: more) n rest rs)
    (ha : a.run { s with todo := more } = .next (({ s with todo := more } : State).presentRequest r)) :
    s.EndsWithin (m + 2) rest rs :=
  h.endsWithin_of_run ha
    (.of_step (step_answers rfl) (hmore _ ⟨rfl, rfl, h.transport, h.ending, h.program, h.returned⟩))

/-- `MemWrite` of the response's image: an illegal response ends the sequence (R233), any other is sent. -/
theorem State.Amid.endsWithin_of_writeImage (h : s.Amid (.writeImage :: more) (1 + n) rest rs) :
    s.EndsWithin (m + 1) rest rs := by
  cases hill : s.rsp.illegal with
  | true => exact h.endsWithin_of_ends (x := .illegalRequest) (by simp [HostAct.run, State.writeImage, hill])
  | false => exact h.endsWithin_of_sends hmore (buf := s.rsp.frame) (by simp [HostAct.sends, hill])

/-- `init`'s conditional write: the same, and nothing is done where the block asks for no write (R195). -/
theorem State.Amid.endsWithin_of_writeImageIfRequested (h : s.Amid (.writeImageIfRequested :: more) (1 + n) rest rs) :
    s.EndsWithin (m + 1) rest rs := by
  cases hill : s.rsp.illegal with
  | true => exact h.endsWithin_of_ends (x := .illegalRequest) (by simp [HostAct.run, State.writeImageIfRequested, hill])
  | false =>
    cases hwr : s.rsp.wrReq with
    | true => exact h.endsWithin_of_sends hmore (buf := s.rsp.frame) (by simp [HostAct.sends, hill, hwr])
    | false =>
      refine h.endsWithin_of_run (t := { s with todo := more }) ?_ (hmore _ ?_)
      · simp [HostAct.run, State.writeImageIfRequested, hill, hwr]
      · exact ⟨h.turn, rfl, h.transport, h.ending.mono (Nat.le_add_left n 1), h.program, h.returned⟩

omit hmore in
/-- Whatever the next action is, the sequence ends with it or as soon as what is left ends. -/
theorem State.Amid.endsWithin_cons (h : s.Amid (a :: more) (a.events + n) rest rs)
    (hmore : a.gives = false → ∀ t : State, t.Amid more n rest rs → t.EndsWithin m rest rs) :
    s.EndsWithin (m + a.steps) rest rs := by
  cases a with
  | pointer | payload => exact h.endsWithin_of_sends (hmore rfl) rfl
  | receive => exact h.endsWithin_of_receive (hmore rfl)
  | present | presentReceived => exact (Nat.zero_add n ▸ h).endsWithin_of_presents (hmore rfl) rfl
  | writeImage => exact h.endsWithin_of_writeImage (hmore rfl)
  | writeImageIfRequested => exact h.endsWithin_of_writeImageIfRequested (hmore rfl)
  | giveResponse | giveHalted | giveTime | giveDate | giveBytes | giveNothing => exact h.endsWithin_of_ends rfl

end

/-- A list of actions one of which gives ends within its steps, by induction on the list. -/
theorem State.Amid.endsWithin_sum {rest : List HostOp} {rs : List HostResult} (todo : List HostAct) :
    ∀ s : State, s.Amid todo (todo.map HostAct.events).sum rest rs → todo.any HostAct.gives = true →
      s.EndsWithin (todo.map HostAct.steps).sum rest rs := by
  induction todo with
  | nil => intro s _ hgives; cases hgives
  | cons a more ih =>
    intro s h hgives
    rw [List.map_cons, List.sum_cons] at h ⊢
    rw [Nat.add_comm]
    exact h.endsWithin_cons fun ha t ht => ih t ht (by simpa [ha] using hgives)

/-- Settles O56: the host begins the sequence, and its actions end it. -/
theorem everySequenceEnds : Obligations.EverySequenceEnds := by
  intro s op rest hbefore hending
  rw [HostOp.events_eq_sum] at hending
  have hbegun : (s.begin op rest).Amid op.expand (op.expand.map HostAct.events).sum rest s.returned :=
    ⟨hbefore.turn, rfl, hbefore.transport, hending, rfl, rfl⟩
  rw [HostOp.steps_eq_sum]
  exact State.EndsWithin.of_step (step_begins hbefore) (hbegun.endsWithin_sum _ _ op.expand_any_gives)

end Sys2Proof.Machine

namespace Sys2Proof.Machine

/-! ### A sequence keeps the program that stands after it (R72) -/

@[simp] theorem State.gotBytes_program (s : State) (raw : Bool) (n : Nat) (ok : Bool) :
    (s.gotBytes raw n ok).program = s.program := by
  obtain ⟨-, -, -, -, -, h, -⟩ := gotBytes_frame s raw n ok
  exact h

/-- No action of the host touches the program. -/
theorem ActionLeads.program_eq {s t : State} (h : ActionLeads s t) : t.program = s.program := by
  obtain ⟨-, -, ⟨_, _, rfl⟩ | ⟨_, _, rfl⟩⟩ | ⟨_, rfl⟩ | ⟨_, rfl⟩ | rfl := h <;> simp

/-- Only the beginning of a sequence takes from the program. -/
theorem step_program_of_todo {s t : State} {a : HostAct} {more : List HostAct} (htodo : s.todo = a :: more)
    (h : step s = .next t) : t.program = s.program := by
  obtain ⟨-, rfl⟩ | ⟨-, _, _, -, -, hlead⟩ | ⟨-, _, _, hnil, -, -⟩ := step_cases h
  · rfl
  · exact hlead.program_eq
  · rw [htodo] at hnil; cases hnil

/-! ### The two halves of a driver sequence: an image set, and registers read (R192, R193) -/

section
variable {s : State} {more : List HostAct} {n : Nat}

/-- The two steps in which the host puts a request on the wires and the block answers it. -/
theorem State.Doing.steps_present {a : HostAct} {r : Request} {i : Instr} (h : s.Doing (a :: more) n)
    (ha : a.run { s with todo := more } = .next (({ s with todo := more } : State).presentRequest r))
    (hi : decodeRequest r = .instr i) :
    ∃ u t, step s = .next u ∧ step u = .next t ∧ t.Doing more n ∧ t.program = s.program ∧ t.returned = s.returned ∧
      t.dev = s.dev ∧ t.rsp = answerOf i :=
  ⟨_, _, (step_acts h.turn h.todo).trans ha, step_answers rfl, ⟨rfl, rfl, h.transport, h.quiet⟩, rfl, rfl, rfl,
    codecResponse_word hi⟩

/-- The two steps of a register read: what the registers hold is received, and they keep it. -/
theorem State.Doing.steps_readRegisters {addr : Byte} {m : Nat}
    (h : s.Doing (.pointer addr :: .receive false m :: more) (m + 1 + n + 1))
    (hregs : ∀ j < m, isRegister (addr.toNat + j) = true) :
    ∃ u t, step s = .next u ∧ step u = .next t ∧ t.Doing more n ∧ t.program = s.program ∧ t.returned = s.returned ∧
      t.dev.regs = s.dev.regs ∧ t.received = (List.range' addr.toNat m).map s.dev.regs.byte := by
  obtain ⟨u, hstep₁, hdo, hret₁, -, hdev⟩ := h.step_send rfl rfl
  have hpointed : u.dev = { s.dev with ptr := addr } := hdev
  obtain ⟨t, hstep₂, hdo₂, hret₂, hregs₂, hgot⟩ := hdo.step_receive (by
    rw [hpointed]
    exact fun j hj => sameRegion_registers _ (hregs 0 (Nat.zero_lt_of_lt hj)) (hregs j hj))
  rw [hpointed] at hregs₂ hgot
  exact ⟨u, t, hstep₁, hstep₂, hdo₂,
    (step_program_of_todo hdo.todo hstep₂).trans (step_program_of_todo h.todo hstep₁), hret₂.trans hret₁, hregs₂, hgot⟩

end

/-- A sequence that sets registers: its one legal request is answered, and the payload of the answer is stored (R104, R192). -/
theorem run_of_sets {s : State} {op : HostOp} {rest : List HostOp} {r : Request} {i : Instr} {n : Nat} {a v : Byte}
    {vs : List Byte} (h : s.Before op rest) (hq : s.Quiet (n + 1)) (hop : op.expand = [.present r, .writeImage, .giveNothing])
    (hi : decodeRequest r = .instr i) (hlegal : (answerOf i).illegal = false) (hframe : (answerOf i).frame = a :: v :: vs)
    (ha : isRegister a.toNat = true) (hvs : isRegister (a.toNat + vs.length) = true) :
    ∃ t, (∀ k, run (k + 5) s = run k t) ∧ t.Doing [] n ∧ t.program = rest ∧ t.returned = s.returned ++ [.nothing] ∧
      t.dev.regs = s.dev.regs.storeFrom a.toNat (v :: vs) := by
  obtain ⟨s₂, s₃, hstep₂, hstep₃, hdo₃, hprog₃, hret₃, hdev₃, hrsp₃⟩ := (hop ▸ h.doing hq).steps_present rfl hi
  have hsends : HostAct.writeImage.sends s₃.rsp = some (a :: v :: vs) := by
    rw [hrsp₃, ← hframe]
    simp [HostAct.sends, hlegal]
  obtain ⟨s₄, hstep₄, hdo₄, hret₄, -, hdev₄⟩ := hdo₃.step_send hsends rfl
  have hprog₄ : s₄.program = rest := (step_program_of_todo hdo₃.todo hstep₄).trans hprog₃
  refine ⟨({ s₄ with todo := [] } : State).endSequence .nothing, fun k => ?_,
    ⟨hdo₄.turn, rfl, hdo₄.transport, hdo₄.quiet⟩, hprog₄, ?_, ?_⟩
  · rw [run_succ (k + 4) (step_begins h), run_succ (k + 3) hstep₂, run_succ (k + 2) hstep₃, run_succ (k + 1) hstep₄,
      run_succ k (step_acts hdo₄.turn hdo₄.todo)]
  · exact congrArg (· ++ [_]) (hret₄.trans hret₃)
  · change s₄.dev.regs = _
    rw [hdev₄, takeFrame_regs (sameRegion_registers _ ha hvs), hdev₃, State.begin_dev]

/-- GET_DATE, step by step: the four date registers are read, the block decodes them, and their date is returned (R199). -/
theorem run_getDate {s : State} {rest : List HostOp} {b0 b1 b2 b3 : Byte} (h : s.Before .getDate rest) (hq : s.Quiet 6)
    (hdate : (List.range' regDay.toNat 4).map s.dev.regs.byte = [b0, b1, b2, b3]) :
    ∃ t, run 6 s = .next t ∧ t.todo = [] ∧ t.program = rest ∧ t.dev.regs = s.dev.regs ∧
      t.returned = s.returned ++ [.date (answerDecd b0 b1 b2 b3).date] := by
  obtain ⟨s₂, s₃, hstep₂, hstep₃, hdo₃, hprog₃, hret₃, hregs₃, hgot⟩ :=
    State.Doing.steps_readRegisters (n := 0) (h.doing hq) (by decide)
  have hdecd : decodeRequest (Request.ofBytes opDecd s₃.received) = .instr (.decd b0 b1 b2 b3) := by
    rw [hgot]
    exact congrArg (fun bs => decodeRequest (Request.ofBytes opDecd bs)) hdate
  obtain ⟨s₄, s₅, hstep₄, hstep₅, hdo₅, hprog₅, hret₅, hdev₅, hrsp₅⟩ := hdo₃.steps_present rfl hdecd
  refine ⟨({ s₅ with todo := [] } : State).endSequence (.date s₅.rsp.date), ?_, rfl, hprog₅.trans hprog₃, ?_, ?_⟩
  · rw [run_succ 5 (step_begins h), run_succ 4 hstep₂, run_succ 3 hstep₃, run_succ 2 hstep₄, run_succ 1 hstep₅,
      run_succ 0 (step_acts hdo₅.turn hdo₅.todo)]
    rfl
  · exact (congrArg Device.regs hdev₅).trans hregs₃
  · rw [State.endSequence_returned, hrsp₅]
    exact congrArg (· ++ _) (hret₅.trans hret₃)

/-! ### The date round trip (R164) -/

/-- A payload stored is what a read of as many registers gives back. -/
theorem Memory.map_byte_storeFrom (m : Memory) (a : Nat) (vs : List Byte) :
    (List.range' a vs.length).map (m.storeFrom a vs).byte = vs := by
  refine List.ext_getElem (by simp) fun i _ hi => ?_
  have hread : (m.storeFrom a vs).read (a + i) = some vs[i] :=
    (Memory.read_storeFrom vs m a i hi).trans (List.getElem?_eq_getElem hi)
  simp [Memory.byte_of_read hread]

/-- Two decimal digits survive the BCD byte (R130, R131). -/
theorem bcd2b_b2bcd {v : Byte} (h : v.toNat ≤ 99) : bcd2b (b2bcd v) = v := by
  refine BitVec.eq_of_toNat_eq ?_
  rw [bcd2b_toNat, b2bcd_toNat]
  omega

/-- What DECD answers to the images of a date's fields is the date (R162, R163). -/
theorem answerDecd_date_of_encoded {v : DateValue} (hday : v.day.toNat ≤ 99) (hdate : v.date.toNat ≤ 99)
    (hmonth : v.month.toNat ≤ 99) (hyear : v.year.toNat ≤ 99) :
    (answerDecd (encDateField v.day) (encDateField v.date) (encDateField v.month) (encDateField v.year)).date = v := by
  simp only [answerDecd, Response.date, decDateField, encDateField, bcd2b_b2bcd hday, bcd2b_b2bcd hdate,
    bcd2b_b2bcd hmonth, bcd2b_b2bcd hyear]

/-- Settles O59: SET_DATE stores the four images from 0x03 on and nothing else, and GET_DATE decodes what it reads there. -/
theorem setDateThenGetDateReturnsIt : Obligations.SetDateThenGetDateReturnsIt := by
  intro s v rest hbefore hquiet hday hdate hmonth hyear
  obtain ⟨t, hrun, hdo, hprog, hret, hregs⟩ :=
    run_of_sets (i := .encd v.day v.date v.month v.year) (n := 6) hbefore hquiet rfl rfl rfl rfl rfl rfl
  have hstored := Memory.map_byte_storeFrom s.dev.regs regDay.toNat
    [encDateField v.day, encDateField v.date, encDateField v.month, encDateField v.year]
  obtain ⟨u, hrun', htodo, hprog', hregs', hret'⟩ :=
    run_getDate ⟨hdo.turn, hdo.todo, hprog, hdo.transport⟩ hdo.quiet (hregs ▸ hstored)
  refine ⟨u, (hrun 6).trans hrun', ?_, hprog', htodo, fun a ha => ?_⟩
  · rw [hret', hret, answerDecd_date_of_encoded hday hdate hmonth hyear, List.append_assoc]
    rfl
  · rw [hregs', hregs]
    exact Memory.read_storeFrom_other _ _ _ _ ha

end Sys2Proof.Machine

namespace Sys2Proof

/-! ### Operation codes and the decoder's equations (R95, R96) -/

/-- The sixteen operation codes: eight select an operation, the others are reserved. -/
theorem op_cases (c : BitVec 4) :
    8 ≤ c.toNat ∨ c = opB2bcd ∨ c = opBcd2b ∨ c = opEnct ∨ c = opDect ∨ c = opEncd ∨ c = opDecd ∨ c = opEncsqw ∨
      c = opChkhalt := by
  revert c; decide

section
variable {r : Request}

theorem decodeRequest_of_opB2bcd (h : r.op = opB2bcd) : decodeRequest r = .instr (.b2bcd r.d0) := by
  rw [decodeRequest, h]; rfl
theorem decodeRequest_of_opBcd2b (h : r.op = opBcd2b) : decodeRequest r = .instr (.bcd2b r.d0) := by
  rw [decodeRequest, h]; rfl
theorem decodeRequest_of_opEnct (h : r.op = opEnct) : decodeRequest r = .instr (.enct r.d0 r.d1 r.d2 r.fmt) := by
  rw [decodeRequest, h]; rfl
theorem decodeRequest_of_opDect (h : r.op = opDect) : decodeRequest r = .instr (.dect r.d0 r.d1 r.d2) := by
  rw [decodeRequest, h]; rfl
theorem decodeRequest_of_opEncd (h : r.op = opEncd) : decodeRequest r = .instr (.encd r.d0 r.d1 r.d2 r.d3) := by
  rw [decodeRequest, h]; rfl
theorem decodeRequest_of_opDecd (h : r.op = opDecd) : decodeRequest r = .instr (.decd r.d0 r.d1 r.d2 r.d3) := by
  rw [decodeRequest, h]; rfl
theorem decodeRequest_of_opEncsqw (h : r.op = opEncsqw) : decodeRequest r = .instr (.encsqw r.d0) := by
  rw [decodeRequest, h]; rfl
theorem decodeRequest_of_opChkhalt (h : r.op = opChkhalt) : decodeRequest r = .instr (.chkhalt r.d0) := by
  rw [decodeRequest, h]; rfl

theorem decodeRequest_of_reserved (h : 8 ≤ r.op.toNat) : decodeRequest r = .rejected (.reservedOp r.op) := by
  unfold decodeRequest
  split
  case h_9 => rfl
  all_goals omega

end

theorem decode_word (r : Request) : decode r.word = decodeRequest r :=
  congrArg decodeRequest (Machine.Request.ofWord_word r)

/-- The fields the encoder fills in are the ones the decoder reads. -/
theorem decodeRequest_encodeRequest (i : Instr) : decodeRequest (encodeRequest i) = .instr i := by cases i <;> rfl

/-- Settles O1: packing keeps the fields, and the encoder fills in the fields the decoder reads. -/
theorem decodeOfEncodeIsInstruction : Obligations.DecodeOfEncodeIsInstruction := by
  intro i
  rw [encode, decode_word, decodeRequest_encodeRequest]

/-! ### The view of an operation, field by field (R93, R97) -/

/-- Two requests under a bitwise and, field by field. -/
def Request.and (r m : Request) : Request :=
  { op := r.op &&& m.op, fmt := r.fmt &&& m.fmt, d0 := r.d0 &&& m.d0, d1 := r.d1 &&& m.d1, d2 := r.d2 &&& m.d2,
    d3 := r.d3 &&& m.d3 }

/-- A mask applied to the fields is the mask's word applied to the word. -/
theorem Request.word_and (r m : Request) : (r.and m).word = r.word &&& m.word := by
  simp only [Request.word, Request.and, ← BitVec.and_append]

theorem Request.word_injective {r r' : Request} (h : r.word = r'.word) : r = r' := by
  rw [← Machine.Request.ofWord_word r, h, Machine.Request.ofWord_word]

/-- The fields an operation reads, as a mask: the operation code and its operands' fields. -/
def Instr.view : Instr → Request
  | .b2bcd _ | .bcd2b _ | .encsqw _ | .chkhalt _ =>
    { op := .allOnes 4, fmt := 0, d0 := .allOnes 8, d1 := 0, d2 := 0, d3 := 0 }
  | .enct _ _ _ _ =>
    { op := .allOnes 4, fmt := .allOnes 2, d0 := .allOnes 8, d1 := .allOnes 8, d2 := .allOnes 8, d3 := 0 }
  | .dect _ _ _ => { op := .allOnes 4, fmt := 0, d0 := .allOnes 8, d1 := .allOnes 8, d2 := .allOnes 8, d3 := 0 }
  | .encd _ _ _ _ | .decd _ _ _ _ =>
    { op := .allOnes 4, fmt := 0, d0 := .allOnes 8, d1 := .allOnes 8, d2 := .allOnes 8, d3 := .allOnes 8 }

/-- `readMask` is the word of the view. -/
theorem Instr.word_view (i : Instr) : i.view.word = Machine.readMask i := by
  cases i <;> (simp only [Instr.view, Machine.readMask]; decide)

/-- Every operation reads the whole operation code (R235). -/
theorem Instr.view_op (i : Instr) : i.view.op = .allOnes 4 := by cases i <;> rfl

/-- A request that decodes to an instruction is that instruction's, in the fields the instruction reads. -/
theorem Request.and_view_of_decodeRequest {r : Request} {i : Instr} (h : decodeRequest r = .instr i) :
    r.and i.view = encodeRequest i := by
  obtain ⟨op, fmt, d0, d1, d2, d3⟩ := r
  obtain hop | rfl | rfl | rfl | rfl | rfl | rfl | rfl | rfl := op_cases op
  · cases (decodeRequest_of_reserved hop).symm.trans h
  all_goals cases h; simp [Request.and, Instr.view, encodeRequest, -BitVec.reduceAllOnes]

/-- Settles O2: clearing the unread bits of the word is clearing the unread fields of its request. -/
theorem encodeOfDecodeClearsUnreadFields : Obligations.EncodeOfDecodeClearsUnreadFields := by
  intro w i h
  calc encode i = ((Request.ofWord w).and i.view).word := by rw [Request.and_view_of_decodeRequest h, encode]
    _ = w &&& Machine.readMask i := by rw [Request.word_and, Machine.Request.word_ofWord, Instr.word_view]

/-! ### The opcode table (R109, R110) -/

/-- The table's mask reads the operation code: the masked word is the word of a request whose other fields are 0. -/
theorem and_opMask_eq_iff (w : ReqWord) (c : BitVec 4) :
    w &&& 0x3C00000000#38 = (⟨c, 0, 0, 0, 0, 0⟩ : Request).word ↔ (Request.ofWord w).op = c := by
  have hmask : w &&& 0x3C00000000#38 = ((Request.ofWord w).and ⟨.allOnes 4, 0, 0, 0, 0, 0⟩).word := by
    rw [Request.word_and, Machine.Request.word_ofWord]; rfl
  rw [hmask]
  refine ⟨fun h => ?_, fun h => ?_⟩
  · simpa [Request.and, -BitVec.reduceAllOnes] using congrArg Request.op (Request.word_injective h)
  · simp [Request.and, h, -BitVec.reduceAllOnes]

/-- What decodes to an instruction has its operation code. -/
theorem op_of_decode {w : ReqWord} {i : Instr} (h : decode w = .instr i) :
    (Request.ofWord w).op = (encodeRequest i).op := by
  rw [← Request.and_view_of_decodeRequest h, Request.and, Instr.view_op, BitVec.and_allOnes]

/-- Settles O5, operation by operation: the masked word is the match value exactly when the code is the operation's. -/
theorem opcodeTableMatchValues : Obligations.OpcodeTableMatchValues := by
  intro w
  refine ⟨?_, ?_, ?_, ?_, ?_, ?_, ?_, ?_⟩
  · exact (and_opMask_eq_iff w opB2bcd).trans ⟨fun h => ⟨_, decodeRequest_of_opB2bcd h⟩, fun ⟨_, h⟩ => op_of_decode h⟩
  · exact (and_opMask_eq_iff w opBcd2b).trans ⟨fun h => ⟨_, decodeRequest_of_opBcd2b h⟩, fun ⟨_, h⟩ => op_of_decode h⟩
  · exact (and_opMask_eq_iff w opEnct).trans
      ⟨fun h => ⟨_, _, _, _, decodeRequest_of_opEnct h⟩, fun ⟨_, _, _, _, h⟩ => op_of_decode h⟩
  · exact (and_opMask_eq_iff w opDect).trans
      ⟨fun h => ⟨_, _, _, decodeRequest_of_opDect h⟩, fun ⟨_, _, _, h⟩ => op_of_decode h⟩
  · exact (and_opMask_eq_iff w opEncd).trans
      ⟨fun h => ⟨_, _, _, _, decodeRequest_of_opEncd h⟩, fun ⟨_, _, _, _, h⟩ => op_of_decode h⟩
  · exact (and_opMask_eq_iff w opDecd).trans
      ⟨fun h => ⟨_, _, _, _, decodeRequest_of_opDecd h⟩, fun ⟨_, _, _, _, h⟩ => op_of_decode h⟩
  · exact (and_opMask_eq_iff w opEncsqw).trans ⟨fun h => ⟨_, decodeRequest_of_opEncsqw h⟩, fun ⟨_, h⟩ => op_of_decode h⟩
  · exact (and_opMask_eq_iff w opChkhalt).trans ⟨fun h => ⟨_, decodeRequest_of_opChkhalt h⟩, fun ⟨_, h⟩ => op_of_decode h⟩

end Sys2Proof

namespace Sys2Proof.Machine

/-! ### The words' layouts (R90, R91) -/

/-- Settles O3: the fields of a packed request are the request's, and those of a word pack to it. -/
theorem requestWordLayout : Obligations.RequestWordLayout := by
  refine ⟨fun r => ?_, Request.word_ofWord⟩
  have h := Request.ofWord_word r
  exact ⟨congrArg Request.op h, congrArg Request.fmt h, congrArg Request.d3 h, congrArg Request.d2 h,
    congrArg Request.d1 h, congrArg Request.d0 h, h⟩

/-- Settles O4, field by field: what is packed below the field is dropped, and the field is the low part of what is left. -/
theorem responseWordLayout : Obligations.ResponseWordLayout := by
  intro r
  unfold Response.word
  refine ⟨?illegal, ?halted, ?wrReq, ?_, ?_, ?_, ?_, ?_, ?_, ?_⟩
  case illegal | halted | wrReq => simp only [BitVec.getLsbD_append]; simp
  all_goals
    repeat rw [BitVec.extractLsb'_append_eq_of_le (by decide)]
    exact BitVec.extractLsb'_append_eq_right

/-- A word that an instruction encodes to decodes to it. -/
theorem decode_of_encode_eq {w : ReqWord} {i : Instr} (h : encode i = w) : decode w = .instr i :=
  h ▸ decodeOfEncodeIsInstruction i

/-- Settles O6: each word is what its instruction encodes to. -/
theorem exampleWordsDecode : Obligations.ExampleWordsDecode := by
  refine ⟨?_, ?_, ?_, ?_, ?_, ?_, ?_, ?_⟩ <;> exact decode_of_encode_eq (by decide)

/-! ### The block's answer -/

/-- Settles O7: the block's move on a word that decodes is that instruction's meaning. -/
theorem stepRunsDecodedInstruction : Obligations.StepRunsDecodedInstruction := fun _ _ => step_of_decode

/-- Requests that decode alike are answered alike. -/
theorem codecResponse_congr {r r' : Request} (h : decodeRequest r = decodeRequest r') :
    codecResponse r.word = codecResponse r'.word := by
  simp only [codecResponse, decode_word, h]

/-- A reserved operation code is answered as illegal (R96). -/
theorem codecResponse_of_reserved {r : Request} (h : 8 ≤ r.op.toNat) :
    codecResponse r.word = Response.illegalAnswer := by
  simp only [codecResponse, decode_word, decodeRequest_of_reserved h]

/-- Only the reserved operation codes are rejected (R96). -/
theorem reserved_of_rejected {r : Request} {e : DecodeError} (h : decodeRequest r = .rejected e) : 8 ≤ r.op.toNat := by
  obtain ⟨op, fmt, d0, d1, d2, d3⟩ := r
  obtain hres | rfl | rfl | rfl | rfl | rfl | rfl | rfl | rfl := op_cases op
  · exact hres
  all_goals cases h

/-- CHKHALT answers to bit 7 of its byte alone (R100). -/
theorem answerChkhalt_congr {b b' : Byte} (h : b.getLsbD 7 = b'.getLsbD 7) : answerChkhalt b = answerChkhalt b' := by
  simp only [answerChkhalt, haltedFlag, wrReqFlag, chOf, chBit, h]

/-- Settles O11: but for CHKHALT the two requests decode alike; and what the encoder gives is itself under the view. -/
theorem unreadRequestFieldsHaveNoEffect : Obligations.UnreadRequestFieldsHaveNoEffect := by
  refine ⟨?_, fun i => ?_⟩
  · rintro ⟨op, fmt, d0, d1, d2, d3⟩ ⟨op', fmt', d0', d1', d2', d3'⟩ hop hd0 henct hdect hdate hchk
    obtain rfl : op = op' := hop
    refine congrArg Response.word ?_
    obtain hres | rfl | rfl | rfl | rfl | rfl | rfl | rfl | rfl := op_cases op
    · rw [codecResponse_of_reserved hres, codecResponse_of_reserved hres]
    · obtain rfl : d0 = d0' := hd0 (.inl rfl)
      exact codecResponse_congr rfl
    · obtain rfl : d0 = d0' := hd0 (.inr (.inl rfl))
      exact codecResponse_congr rfl
    · obtain ⟨rfl, rfl, rfl, rfl⟩ : d0 = d0' ∧ d1 = d1' ∧ d2 = d2' ∧ fmt = fmt' := henct rfl
      exact codecResponse_congr rfl
    · obtain ⟨rfl, rfl, rfl⟩ : d0 = d0' ∧ d1 = d1' ∧ d2 = d2' := hdect rfl
      exact codecResponse_congr rfl
    · obtain ⟨rfl, rfl, rfl, rfl⟩ : d0 = d0' ∧ d1 = d1' ∧ d2 = d2' ∧ d3 = d3' := hdate (.inl rfl)
      exact codecResponse_congr rfl
    · obtain ⟨rfl, rfl, rfl, rfl⟩ : d0 = d0' ∧ d1 = d1' ∧ d2 = d2' ∧ d3 = d3' := hdate (.inr rfl)
      exact codecResponse_congr rfl
    · obtain rfl : d0 = d0' := hd0 (.inr (.inr rfl))
      exact codecResponse_congr rfl
    · rw [codecResponse_word (decodeRequest_of_opChkhalt rfl), codecResponse_word (decodeRequest_of_opChkhalt rfl)]
      exact answerChkhalt_congr (hchk rfl)
  · have hview : encode i = encode i &&& readMask i :=
      encodeOfDecodeClearsUnreadFields _ _ (decodeOfEncodeIsInstruction i)
    rw [hview, BitVec.and_assoc, BitVec.and_not_self]
    exact BitVec.and_zero

/-! ### Which requests are illegal (R101) -/

theorem answerEncsqw_of_mode {sel : Byte} {m : SqwMode} (hm : modeOfSelect sel = some m) :
    answerEncsqw sel = ⟨false, false, false, 0, 1, 0x07, sqwByte m, 0, 0, 0⟩ := by
  simp only [answerEncsqw, hm]; rfl

theorem answerEncsqw_of_reserved {sel : Byte} (h : modeOfSelect sel = none) :
    answerEncsqw sel = Response.illegalAnswer := by
  simp only [answerEncsqw, h]

/-- The answer to an instruction is illegal exactly when the instruction is ill-formed. -/
theorem answerOf_illegal (i : Instr) : (answerOf i).illegal = !i.wellFormed := by
  cases i with
  | enct sec min hr fmt => obtain rfl | rfl | rfl | rfl := format_code_cases fmt <;> rfl
  | encsqw sel =>
    obtain ⟨hle, m, hm⟩ | ⟨hgt, hm⟩ := mode_select_cases sel
    · simp [answerOf, answerEncsqw_of_mode hm, Instr.wellFormed, Instr.modeOk, hle]
    · simp [answerOf, answerEncsqw_of_reserved hm, Response.illegalAnswer, Instr.wellFormed, Instr.modeOk, hgt]
  | _ => rfl

/-- The three conditions of R101: a reserved operation code, ENCT with the reserved format, ENCSQW with a reserved mode. -/
def IllegalRequest (r : Request) : Prop :=
  8 ≤ r.op.toNat ∨ (r.op = opEnct ∧ r.fmt = 0b01#2) ∨ (r.op = opEncsqw ∧ 5 < r.d0.toNat)

/-- A request whose fields decode is illegal exactly when its instruction is ill-formed. -/
theorem illegalRequest_iff_of_decode {r : Request} {i : Instr} (h : decodeRequest r = .instr i) :
    IllegalRequest r ↔ i.wellFormed = false := by
  obtain ⟨op, fmt, d0, d1, d2, d3⟩ := r
  obtain hres | rfl | rfl | rfl | rfl | rfl | rfl | rfl | rfl := op_cases op
  · cases (decodeRequest_of_reserved hres).symm.trans h
  all_goals cases h; simp [IllegalRequest, opB2bcd, opBcd2b, opEnct, opDect, opEncd, opDecd, opEncsqw, opChkhalt,
    Instr.wellFormed, Instr.formatOk, Instr.modeOk]

/-- The block's answer is illegal under the three conditions and no others. -/
theorem codecResponse_illegal_iff (r : Request) : (codecResponse r.word).illegal = true ↔ IllegalRequest r := by
  cases h : decodeRequest r with
  | instr i => rw [codecResponse_word h, answerOf_illegal, illegalRequest_iff_of_decode h, Bool.not_eq_true']
  | rejected e =>
    have hres : 8 ≤ r.op.toNat := reserved_of_rejected h
    exact iff_of_true (codecResponse_of_reserved hres ▸ rfl) (.inl hres)

theorem codecResponse_legal_iff (r : Request) : (codecResponse r.word).illegal = false ↔ ¬IllegalRequest r := by
  rw [← codecResponse_illegal_iff, Bool.not_eq_true]

/-- Settles O12: the block's move answers the request on the wires. -/
theorem illegalForExactlyThreeConditions : Obligations.IllegalForExactlyThreeConditions :=
  fun s h => ⟨_, step_of_block h, codecResponse_illegal_iff s.req⟩

/-- Settles O13: an answer with `illegal` = 1 is the one illegal answer, and the next request presented is answered. -/
theorem illegalRequestGetsIllegalResponse : Obligations.IllegalRequestGetsIllegalResponse := by
  intro s h hill
  have hrsp : codecResponse s.fetch = Response.illegalAnswer :=
    (show (codecResponse s.fetch).isAnswer from ⟨_, rfl⟩).shaped.illegal ((codecResponse_illegal_iff s.req).2 hill)
  have hstep := step_of_block h
  rw [hrsp] at hstep
  exact ⟨_, hstep, rfl, illegalAnswer_word, rfl, fun r => ⟨_, step_answers rfl, rfl⟩⟩

/-! ### The fields of an operation's answer (R103, R104) -/

/-- Settles O14: a well-formed instruction's answer starts from every field 0. -/
theorem undrivenResponseFieldsAreZero : Obligations.UndrivenResponseFieldsAreZero := by
  intro i s hwf
  refine ⟨_, exec_eq_respond i s, by simp [answerOf_illegal, hwf], ?_⟩
  cases i with
  | b2bcd | bcd2b => exact ⟨rfl, rfl, rfl, rfl, rfl, rfl⟩
  | enct sec min hr fmt =>
    obtain rfl | rfl | rfl | rfl := format_code_cases fmt <;> exact ⟨rfl, rfl, rfl, rfl⟩
  | dect | encd | decd => exact ⟨rfl, rfl, rfl⟩
  | encsqw sel =>
    simp only [State.respond_rsp, answerOf]
    obtain ⟨-, m, hm⟩ | ⟨-, hm⟩ := mode_select_cases sel
    · rw [answerEncsqw_of_mode hm]; exact ⟨rfl, rfl, rfl, rfl, rfl, rfl⟩
    · rw [answerEncsqw_of_reserved hm]; exact ⟨rfl, rfl, rfl, rfl, rfl, rfl⟩
  | chkhalt => exact ⟨rfl, rfl, rfl, rfl⟩

/-- Settles O15, operation by operation; the illegal answer has both fields 0. -/
theorem transferConstantsPerOperation : Obligations.TransferConstantsPerOperation := by
  refine ⟨fun i s => ⟨_, exec_eq_respond i s, ?_⟩, fun s h hres => ⟨_, step_of_block h, ?_⟩⟩
  · cases i with
    | enct sec min hr fmt => obtain rfl | rfl | rfl | rfl := format_code_cases fmt <;> rfl
    | encsqw sel =>
      simp only [State.respond_rsp, answerOf]
      obtain ⟨hle, m, hm⟩ | ⟨hgt, hm⟩ := mode_select_cases sel
      · rw [answerEncsqw_of_mode hm, if_pos hle]; rfl
      · rw [answerEncsqw_of_reserved hm, if_neg (Nat.not_le.2 hgt)]; rfl
    | _ => rfl
  · rw [State.respond_rsp, State.fetch, codecResponse_of_reserved hres]
    exact ⟨rfl, rfl⟩

/-! ### Whose move changes what (R72, R92) -/

@[simp] theorem State.gotBytes_rsp (s : State) (raw : Bool) (n : Nat) (ok : Bool) :
    (s.gotBytes raw n ok).rsp = s.rsp := by
  obtain ⟨-, -, h, -⟩ := gotBytes_frame s raw n ok
  exact h

/-- No action of the host touches the sampled response. -/
theorem ActionLeads.rsp_eq {s t : State} (h : ActionLeads s t) : t.rsp = s.rsp := by
  obtain ⟨-, -, ⟨_, _, rfl⟩ | ⟨_, _, rfl⟩⟩ | ⟨_, rfl⟩ | ⟨_, rfl⟩ | rfl := h <;> simp

/-- Settles O39, by the three moves a step can be: the block's answer touches no field of the host's, and neither an action
nor the beginning of a sequence touches the response. -/
theorem onlyTheBlockAnswers : Obligations.OnlyTheBlockAnswers := by
  intro s t h
  obtain ⟨hmover, rfl⟩ | ⟨hmover, _, _, -, -, hlead⟩ | ⟨hmover, _, _, -, -, rfl⟩ := step_cases h <;> rw [hmover]
  · exact ⟨nofun, fun _ => ⟨rfl, rfl, rfl, rfl⟩⟩
  · exact ⟨fun _ => hlead.rsp_eq, nofun⟩
  · exact ⟨fun _ => rfl, nofun⟩

end Sys2Proof.Machine

namespace Sys2Proof.Machine

/-! ### A legal sequence, action by action (R101, R232)

Where every call returns and every request is legal, an action leads to a state with a legal response in which the rest of
the sequence is left to do. -/

/-- After some of the events in which every call returns, every call returns in the others, or in fewer of them. -/
theorem State.Returning.after {s t : State} {j k n : Nat} (h : s.Returning j) (hj : k + n ≤ j)
    (henv : t.env = s.env.drop k) : t.Returning n := by
  obtain ⟨hlen, hev⟩ := h
  refine ⟨by rw [henv, List.length_drop]; omega, fun e he => hev e ?_⟩
  rw [henv, List.take_drop] at he
  exact List.take_subset_take_left _ hj (List.mem_of_mem_drop he)

/-- The block answers what an action presents with a legal response, whatever bytes were received. -/
def HostAct.Legal : HostAct → Prop
  | .present r => ¬IllegalRequest r
  | .presentReceived op => ∀ bs, ¬IllegalRequest (Request.ofBytes op bs)
  | .pointer _ | .payload _ | .receive _ _ | .writeImage | .writeImageIfRequested | .giveResponse | .giveHalted | .giveTime
  | .giveDate | .giveBytes | .giveNothing => True

/-- No lanes make a request illegal whose operation is neither ENCT nor ENCSQW. -/
theorem HostAct.legal_presentReceived {op : BitVec 4} (hop : op.toNat < 8 ∧ op ≠ opEnct ∧ op ≠ opEncsqw) :
    (HostAct.presentReceived op).Legal := by
  obtain ⟨hres, henct, hencsqw⟩ := hop
  rintro bs (h | ⟨h, -⟩ | ⟨h, -⟩)
  · exact Nat.not_le.2 hres h
  · exact henct h
  · exact hencsqw h

/-- The request of a well-formed instruction is legal. -/
theorem not_illegalRequest_encodeRequest {i : Instr} (h : i.wellFormed = true) : ¬IllegalRequest (encodeRequest i) := by
  simp [illegalRequest_iff_of_decode (decodeRequest_encodeRequest i), h]

/-- A legal operation's actions are legal. -/
theorem HostOp.expand_legal {op : HostOp} (h : op.legal = true) : ∀ a ∈ op.expand, a.Legal := by
  cases op <;> simp only [HostOp.expand, List.forall_mem_cons]
  case request r => exact ⟨(codecResponse_legal_iff r).1 (by simpa [HostOp.legal] using h), trivial, nofun⟩
  case setTime t => exact ⟨not_illegalRequest_encodeRequest h, trivial, trivial, nofun⟩
  case setDate d => exact ⟨not_illegalRequest_encodeRequest rfl, trivial, trivial, nofun⟩
  case setSquareWave mode => exact ⟨not_illegalRequest_encodeRequest h, trivial, trivial, nofun⟩
  case init => exact ⟨trivial, trivial, HostAct.legal_presentReceived (by decide), trivial, trivial, nofun⟩
  case getTime | getDate => exact ⟨trivial, trivial, HostAct.legal_presentReceived (by decide), trivial, nofun⟩
  case ramRead | ramWrite => exact ⟨trivial, trivial, trivial, nofun⟩

/-- Only the last action of an operation's expansion gives. -/
theorem HostOp.expand_gives_last (op : HostOp) : op.expand.Pairwise fun a _ => a.gives = false := by
  cases op <;> simp [HostOp.expand, HostAct.gives]

/-- The host is amid a legal sequence: `todo` is left to do, every call of the next `n` events returns, and the sampled
response is legal. -/
structure State.AmidLegal (s : State) (todo : List HostAct) (n : Nat) : Prop where
  turn      : s.turn = .host
  todo      : s.todo = todo
  transport : s.transport = true
  returning : s.Returning n
  legal     : s.rsp.illegal = false

section
variable {s t : State} {a : HostAct} {more : List HostAct} {n m : Nat}

/-- The host does its next action. -/
theorem State.AmidLegal.safeRun_of_run (h : s.AmidLegal (a :: more) n) (hrun : a.run { s with todo := more } = .next t)
    (ht : SafeRun m t) : SafeRun (m + 1) s :=
  ⟨h.legal, t, (step_acts h.turn h.todo).trans hrun, ht⟩

variable (hmore : ∀ t : State, t.AmidLegal more n → SafeRun m t)
include hmore

theorem State.AmidLegal.safeRun_of_sends {buf : List Byte} (h : s.AmidLegal (a :: more) (1 + n))
    (ha : a.sends s.rsp = some buf) : SafeRun (m + 1) s := by
  have hret : ({ s with todo := more } : State).Returning (n + 1) := Nat.add_comm 1 n ▸ h.returning
  have hrun := (run_of_sends (s := { s with todo := more }) ha).trans
    (send_of_ends a.payloadAlone buf h.transport hret.head.1 (by decide))
  rw [State.afterCall_of_returns] at hrun
  refine h.safeRun_of_run hrun (hmore _ ?_)
  exact
    { turn      := by simpa using h.turn
      todo      := by simp
      transport := by simpa using h.transport
      returning := h.returning.after le_rfl (by simp [State.dropEvent_env])
      legal     := by simpa using h.legal }

theorem State.AmidLegal.safeRun_of_receive {raw : Bool} {len : Nat}
    (h : s.AmidLegal (.receive raw len :: more) (len + 1 + n)) : SafeRun (m + 1) s := by
  have hret : ({ s with todo := more } : State).Returning (len + n + 1) := Nat.add_right_comm len 1 n ▸ h.returning
  have hrun := receive_of_ends (s := { s with todo := more }) raw len h.transport hret.head.1 (by decide)
  rw [State.afterCall_of_returns] at hrun
  obtain ⟨-, -, hrsp, hturn, htr, -, htodo, -⟩ := gotBytes_frame { s with todo := more } raw len true
  exact h.safeRun_of_run hrun (hmore _
    ⟨hturn.trans h.turn, htodo, htr.trans h.transport, h.returning.after le_rfl (State.gotBytes_env ..),
      (congrArg Response.illegal hrsp).trans h.legal⟩)

/-- A legal request is put on the wires, and the block answers it. -/
theorem State.AmidLegal.safeRun_of_presents {r : Request} (h : s.AmidLegal (a :: more) n) (hr : ¬IllegalRequest r)
    (ha : a.run { s with todo := more } = .next (({ s with todo := more } : State).presentRequest r)) :
    SafeRun (m + 2) s := by
  have hanswer := (codecResponse_legal_iff r).2 hr
  exact h.safeRun_of_run ha
    ⟨h.legal, _, step_answers rfl, hmore _ ⟨rfl, rfl, h.transport, h.returning, hanswer⟩⟩

/-- `MemWrite` of a legal response's image is a send. -/
theorem State.AmidLegal.safeRun_of_writeImage (h : s.AmidLegal (.writeImage :: more) (1 + n)) : SafeRun (m + 1) s :=
  h.safeRun_of_sends hmore (buf := s.rsp.frame) (by simp [HostAct.sends, h.legal])

/-- `init`'s conditional write is a send, or nothing is done (R195). -/
theorem State.AmidLegal.safeRun_of_writeImageIfRequested (h : s.AmidLegal (.writeImageIfRequested :: more) (1 + n)) :
    SafeRun (m + 1) s := by
  cases hwr : s.rsp.wrReq with
  | true => exact h.safeRun_of_sends hmore (buf := s.rsp.frame) (by simp [HostAct.sends, h.legal, hwr])
  | false =>
    refine h.safeRun_of_run (t := { s with todo := more }) ?_ (hmore _ ?_)
    · simp [HostAct.run, State.writeImageIfRequested, h.legal, hwr]
    · exact ⟨h.turn, rfl, h.transport, h.returning.after (k := 0) (by omega) rfl, h.legal⟩

/-- The sequence ends, with nothing left to do. -/
theorem State.AmidLegal.safeRun_of_ends {x : HostResult} (h : s.AmidLegal (a :: more) n) (hlast : more = [])
    (ha : a.run { s with todo := more } = .next (({ s with todo := more } : State).endSequence x)) :
    SafeRun (m + 1) s :=
  h.safeRun_of_run ha (hmore _ ⟨h.turn, hlast.symm, h.transport, h.returning, h.legal⟩)

/-- Whatever the next action is, its steps are safe if those of what is left are. -/
theorem State.AmidLegal.safeRun_cons (h : s.AmidLegal (a :: more) (a.events + n)) (ha : a.Legal)
    (hlast : a.gives = true → more = []) : SafeRun (m + a.steps) s := by
  cases a with
  | pointer | payload => exact h.safeRun_of_sends hmore rfl
  | receive => exact h.safeRun_of_receive hmore
  | present => exact (Nat.zero_add n ▸ h).safeRun_of_presents hmore ha rfl
  | presentReceived => exact (Nat.zero_add n ▸ h).safeRun_of_presents hmore (ha _) rfl
  | writeImage => exact h.safeRun_of_writeImage hmore
  | writeImageIfRequested => exact h.safeRun_of_writeImageIfRequested hmore
  | giveResponse | giveHalted | giveTime | giveDate | giveBytes | giveNothing =>
    exact (Nat.zero_add n ▸ h).safeRun_of_ends hmore (hlast rfl) rfl

end

/-- Legal actions of which only the last gives run safely, by induction on the list. -/
theorem State.AmidLegal.safeRun_sum (todo : List HostAct) : ∀ s : State,
    s.AmidLegal todo (todo.map HostAct.events).sum → (∀ a ∈ todo, a.Legal) →
      (todo.Pairwise fun a _ => a.gives = false) → SafeRun (todo.map HostAct.steps).sum s := by
  induction todo with
  | nil => exact fun s h _ _ => h.legal
  | cons a more ih =>
    intro s h hlegal hgives
    obtain ⟨ha, hmore⟩ := List.forall_mem_cons.1 hlegal
    obtain ⟨hgo, hgives⟩ := List.pairwise_cons.1 hgives
    rw [List.map_cons, List.sum_cons] at h ⊢
    rw [Nat.add_comm]
    refine h.safeRun_cons (fun t ht => ih t ht hmore hgives) ha fun hg => ?_
    exact List.eq_nil_iff_forall_not_mem.2 fun b hb => by simp [hgo b hb] at hg

/-- Settles O57: the host begins the sequence, and its actions are legal. -/
theorem legalOperationRunsSafely : Obligations.LegalOperationRunsSafely := by
  intro s op rest hbefore hreturning hlegal hrsp
  rw [HostOp.events_eq_sum] at hreturning
  have hbegun : (s.begin op rest).AmidLegal op.expand (op.expand.map HostAct.events).sum :=
    ⟨hbefore.turn, rfl, hbefore.transport, hreturning, hrsp⟩
  rw [HostOp.steps_eq_sum]
  exact ⟨hrsp, _, step_begins hbefore, hbegun.safeRun_sum _ _ (HostOp.expand_legal hlegal) op.expand_gives_last⟩

end Sys2Proof.Machine

namespace Sys2Proof.Machine

/-! ### B2BCD and BCD2B, and how far each undoes the other (R130, R131, R138) -/

/-- The BCD byte is the one of its number (R130, R133). -/
theorem b2bcd_eq_ofNat (v : Byte) : b2bcd v = BitVec.ofNat 8 (v.toNat / 10 % 16 * 16 + v.toNat % 10) := by
  rw [← b2bcd_toNat, BitVec.ofNat_toNat, BitVec.setWidth_eq]

/-- The tens of 160 and above do not fit the high nibble. -/
theorem bcd2b_b2bcd_eq_iff (v : Byte) : bcd2b (b2bcd v) = v ↔ v.toNat ≤ 159 := by
  have := v.isLt
  rw [← BitVec.toNat_inj, bcd2b_toNat, b2bcd_toNat]
  omega

/-- A low nibble above 9 comes back as a decimal digit. -/
theorem b2bcd_bcd2b_eq_iff (b : Byte) : b2bcd (bcd2b b) = b ↔ b.toNat % 16 ≤ 9 := by
  have := b.isLt
  rw [← BitVec.toNat_inj, b2bcd_toNat, bcd2b_toNat]
  omega

/-- The block's move on a request that decodes gives that instruction's answer. -/
theorem step_gives_answerOf {s : State} {r : Request} {i : Instr} (h : s.mover = .block) (hr : s.req = r)
    (hi : decodeRequest r = .instr i) : ∃ t, step s = .next t ∧ t.rsp = answerOf i := by
  subst hr
  exact ⟨_, step_of_block h, codecResponse_word hi⟩

/-- Settles O28: each operation's `q[0]` is its byte function's value, and the two compose to the identity just there. -/
theorem bcdRoundTripExactExtent : Obligations.BcdRoundTripExactExtent :=
  ⟨fun v s => ⟨_, _, exec_eq_respond (.b2bcd v) s, exec_eq_respond (.bcd2b _) _, bcd2b_b2bcd_eq_iff v⟩,
    fun b s => ⟨_, _, exec_eq_respond (.bcd2b b) s, exec_eq_respond (.b2bcd _) _, b2bcd_bcd2b_eq_iff b⟩⟩

/-- Settles O16: the unread format and lanes leave the decoded instruction the same. -/
theorem b2bcdGivesBcdByte : Obligations.B2bcdGivesBcdByte := by
  intro v s
  rw [← b2bcd_eq_ofNat]
  exact ⟨exec_eq_respond (.b2bcd v) s, fun _ _ _ _ h hr => step_gives_answerOf h hr (decodeRequest_of_opB2bcd rfl)⟩

/-- Settles O17: the unread format and lanes leave the decoded instruction the same. -/
theorem bcd2bGivesBinaryByte : Obligations.Bcd2bGivesBinaryByte :=
  fun b s =>
    ⟨exec_eq_respond (.bcd2b b) s, fun _ _ _ _ h hr => step_gives_answerOf h hr (decodeRequest_of_opBcd2b rfl)⟩

end Sys2Proof.Machine

namespace Sys2Proof.Machine

/-! ### The byte functions of the time registers as numbers (R140 to R145) -/

/-- A mask of low ones takes a remainder. -/
theorem toNat_and_lowOnes {b mask : Byte} {k : Nat} (hmask : mask.toNat = 2 ^ k - 1) :
    (b &&& mask).toNat = b.toNat % 2 ^ k := by
  rw [BitVec.toNat_and, hmask, Nat.and_two_pow_sub_one_eq_mod]

/-- The seconds byte is the BCD byte without its bit 7 (R140). -/
theorem encSec_toNat (s : Byte) : (encSec s).toNat = (s.toNat / 10 % 16 * 16 + s.toNat % 10) % 128 := by
  rw [encSec, toNat_and_lowOnes (k := 7) rfl, b2bcd_toNat]
  rfl

/-- Seconds are decoded without bit 7 (R143). -/
theorem decSec_toNat (b : Byte) : (decSec b).toNat = b.toNat / 16 % 8 * 10 + b.toNat % 16 := by
  rw [decSec, bcd2b_toNat, toNat_and_lowOnes (k := 7) rfl]
  omega

/-- Hours are decoded with one tens bit or two, as bit 6 says (R145). -/
theorem decHrHours_toNat (b : Byte) :
    (decHrHours b).toNat = (if b.getLsbD 6 then b.toNat / 16 % 2 else b.toNat / 16 % 4) * 10 + b.toNat % 16 := by
  unfold decHrHours h12Bit
  split
  · rw [bcd2b_toNat, maskHours12, toNat_and_lowOnes (k := 5) rfl]
    omega
  · rw [bcd2b_toNat, maskHours24, toNat_and_lowOnes (k := 6) rfl]
    omega

/-- The code of the decoded format, from bits 6 and 5 (R145). -/
theorem decHrFormat_code (b : Byte) :
    formatCode (decHrFormat b) = if b.getLsbD 6 then (if b.getLsbD 5 then 0b11#2 else 0b10#2) else 0b00#2 := by
  rw [decHrFormat, apply_ite formatCode, apply_ite formatCode]
  rfl

/-- Bit 7 of the hours byte is the BCD byte's in every format (R142). -/
theorem encHr_bit7 (h : Byte) (f : Format) : (encHr h f).getLsbD 7 = (b2bcd h).getLsbD 7 := by
  cases f <;> simp [encHr, maskH12, setH12, maskPm, setH12Pm]

/-- Bit 5 of the hours byte is the BCD byte's in the 24-hour format (R142). -/
theorem encHr_h24_bit5 (h : Byte) : (encHr h .h24).getLsbD 5 = (b2bcd h).getLsbD 5 := by
  simp [encHr, maskH12]

/-- The bits of a format's code: bit 1 for the 12-hour formats, bit 0 for PM (R98). -/
theorem formatCode_bit1 (f : Format) : (formatCode f).getLsbD 1 = decide (f ≠ .h24) := by cases f <;> rfl
theorem formatCode_bit0 (f : Format) : (formatCode f).getLsbD 0 = decide (f = .h12pm) := by cases f <;> rfl

theorem formatCode_eq_h24_iff (f : Format) : formatCode f = 0b00#2 ↔ f = .h24 := by cases f <;> decide

/-- ENCT's answer in a format (R150). -/
theorem answerOf_enct_of_format {fmt : BitVec 2} {f : Format} (hf : formatOfCode fmt = some f) (sec min hr : Byte) :
    answerOf (.enct sec min hr fmt) = ⟨false, false, false, 0, 3, 0x00, encSec sec, encMin min, encHr hr f, 0⟩ := by
  simp only [answerOf, answerEnct, hf]
  rfl

/-! ### How far decoding undoes encoding (R152, R153) -/

theorem decSec_encSec_eq_iff (s : Byte) : decSec (encSec s) = s ↔ s.toNat ≤ 79 := by
  have := s.isLt
  rw [← BitVec.toNat_inj, decSec_toNat, encSec_toNat]
  omega

/-- The forced bits 6 and 5 carry the format back. -/
theorem decHrFormat_encHr (h : Byte) (f : Format) : decHrFormat (encHr h f) = f := by
  unfold decHrFormat h12Bit pmBit
  rw [encHr_bit6]
  cases f with
  | h24 => rfl
  | h12am | h12pm => rw [encHr_bit5 h (by decide)]; rfl

/-- The hours that come back: all the units, and as many bits of the tens as the format has. -/
theorem decHrHours_encHr_toNat (h : Byte) (f : Format) :
    (decHrHours (encHr h f)).toNat =
      (if f = .h24 then h.toNat / 10 % 4 else h.toNat / 10 % 2) * 10 + h.toNat % 10 := by
  have hunits := encHr_units h f
  have hlow := encHr_tens_low h f
  have htens := encHr_h24_tens h
  simp only [BitVec.extractLsb'_toNat, Nat.shiftRight_eq_div_pow] at hunits hlow htens
  rw [decHrHours_toNat, encHr_bit6]
  by_cases hf : f = .h24
  · subst hf
    rw [if_neg (by decide), if_pos rfl]
    omega
  · rw [if_pos (decide_eq_true hf), if_neg hf]
    omega

theorem decHrHours_encHr_eq_iff (h : Byte) (f : Format) :
    decHrHours (encHr h f) = h ↔ h.toNat ≤ if f = .h24 then 39 else 19 := by
  have := h.isLt
  rw [← BitVec.toNat_inj, decHrHours_encHr_toNat]
  split <;> omega

/-- The answers of ENCT in a format and of DECT to its bytes, one after the other (R150, R151). -/
theorem exec_enct_dect {fmt : BitVec 2} {f : Format} (hf : formatOfCode fmt = some f) (sec min hr : Byte) (s : State) :
    ∃ t u, exec (.enct sec min hr fmt) s = .next t ∧ exec (.dect t.rsp.q0 t.rsp.q1 t.rsp.q2) t = .next u ∧
      u.rsp = answerDect (encSec sec) (encMin min) (encHr hr f) :=
  ⟨_, _, exec_enct_of_format hf sec min hr s, exec_eq_respond (.dect _ _ _) _, rfl⟩

/-- Settles O31: each field comes back as far as its own byte functions undo each other, and the format always does. -/
theorem timeRoundTripExactExtent : Obligations.TimeRoundTripExactExtent := by
  intro sec min hr fmt s hfmt
  obtain ⟨f, hf, rfl⟩ := formatOfCode_of_ne_reserved hfmt
  obtain ⟨t, u, henct, hdect, hrsp⟩ := exec_enct_dect hf sec min hr s
  refine ⟨t, u, henct, hdect, ?_⟩
  simp only [hrsp, formatCode_eq_h24_iff]
  exact ⟨decSec_encSec_eq_iff sec, bcd2b_b2bcd_eq_iff min, decHrHours_encHr_eq_iff hr f,
    congrArg formatCode (decHrFormat_encHr hr f)⟩

/-- The hours of a time in range (R152) lie inside the extent of their format. -/
theorem format_of_timeInRange {hr : Byte} {fmt : BitVec 2}
    (h : (fmt = 0b00#2 ∧ hr.toNat ≤ 23) ∨ ((fmt = 0b10#2 ∨ fmt = 0b11#2) ∧ 1 ≤ hr.toNat ∧ hr.toNat ≤ 12)) :
    ∃ f, formatOfCode fmt = some f ∧ fmt = formatCode f ∧ hr.toNat ≤ if f = .h24 then 39 else 19 := by
  obtain ⟨rfl, hle⟩ | ⟨rfl | rfl, -, hle⟩ := h
  · exact ⟨.h24, rfl, rfl, hle.trans (by decide)⟩
  · exact ⟨.h12am, rfl, rfl, hle.trans (by decide)⟩
  · exact ⟨.h12pm, rfl, rfl, hle.trans (by decide)⟩

/-- What DECT answers to the images of a time inside the extent is the time. -/
theorem answerDect_time_of_encoded {v : TimeValue} {f : Format} (hf : v.format = formatCode f)
    (hsec : v.seconds.toNat ≤ 79) (hmin : v.minutes.toNat ≤ 159) (hhr : v.hours.toNat ≤ if f = .h24 then 39 else 19) :
    (answerDect (encSec v.seconds) (encMin v.minutes) (encHr v.hours f)).time = v := by
  simp only [answerDect, Response.time, fmtOut, decHrFormat_encHr, ← hf, (decSec_encSec_eq_iff _).2 hsec, decMin, encMin,
    (bcd2b_b2bcd_eq_iff _).2 hmin, (decHrHours_encHr_eq_iff _ f).2 hhr]

/-- Settles O30: the range lies inside the exact extent. -/
theorem timeRoundTripInRange : Obligations.TimeRoundTripInRange := by
  intro sec min hr fmt s hsec hmin hrange
  obtain ⟨f, hf, hcode, hhr⟩ := format_of_timeInRange hrange
  obtain ⟨t, u, henct, hdect, hrsp⟩ := exec_enct_dect hf sec min hr s
  have htime : u.rsp.time = ⟨sec, min, hr, fmt⟩ :=
    hrsp ▸ answerDect_time_of_encoded (v := ⟨sec, min, hr, fmt⟩) hcode (hsec.trans (by decide))
      (hmin.trans (by decide)) hhr
  exact ⟨t, u, henct, hdect, congrArg TimeValue.seconds htime, congrArg TimeValue.minutes htime,
    congrArg TimeValue.hours htime, congrArg TimeValue.format htime⟩

/-! ### SET_TIME and GET_TIME over the device (R152, R196, R197) -/

/-- A sequence that reads registers into the block and returns what its answer says: what the registers hold is received
and decoded, and the registers keep it (R193). -/
theorem run_of_gets {s : State} {op : HostOp} {rest : List HostOp} {addr : Byte} {m : Nat} {code : BitVec 4}
    {give : HostAct} {result : Response → HostResult} {i : Instr} (h : s.Before op rest) (hq : s.Quiet (m + 2))
    (hop : op.expand = [.pointer addr, .receive false m, .presentReceived code, give])
    (hregs : ∀ j < m, isRegister (addr.toNat + j) = true)
    (hi : decodeRequest (Request.ofBytes code ((List.range' addr.toNat m).map s.dev.regs.byte)) = .instr i)
    (hgive : ∀ t : State, give.run t = .next (t.endSequence (result t.rsp))) :
    ∃ t, run 6 s = .next t ∧ t.todo = [] ∧ t.program = rest ∧ t.dev.regs = s.dev.regs ∧
      t.returned = s.returned ++ [result (answerOf i)] := by
  obtain ⟨s₂, s₃, hstep₂, hstep₃, hdo₃, hprog₃, hret₃, hregs₃, hgot⟩ :=
    State.Doing.steps_readRegisters (n := 0) (hop ▸ h.doing hq) hregs
  obtain ⟨s₄, s₅, hstep₄, hstep₅, hdo₅, hprog₅, hret₅, hdev₅, hrsp₅⟩ := hdo₃.steps_present rfl (hgot ▸ hi)
  refine ⟨({ s₅ with todo := [] } : State).endSequence (result s₅.rsp), ?_, rfl, hprog₅.trans hprog₃, ?_, ?_⟩
  · rw [run_succ 5 (step_begins h), run_succ 4 hstep₂, run_succ 3 hstep₃, run_succ 2 hstep₄, run_succ 1 hstep₅,
      run_succ 0 ((step_acts hdo₅.turn hdo₅.todo).trans (hgive _)), run_zero]
  · exact (congrArg Device.regs hdev₅).trans hregs₃
  · rw [State.endSequence_returned, hrsp₅]
    exact congrArg (· ++ _) (hret₅.trans hret₃)

/-- SET_TIME, in a legal format: the three images are stored from 0x00 on (R196). -/
theorem run_setTime {s : State} {v : TimeValue} {f : Format} {rest : List HostOp} {n : Nat} (h : s.Before (.setTime v) rest)
    (hq : s.Quiet (n + 1)) (hf : formatOfCode v.format = some f) :
    ∃ t, (∀ k, run (k + 5) s = run k t) ∧ t.Doing [] n ∧ t.program = rest ∧ t.returned = s.returned ++ [.nothing] ∧
      t.dev.regs = s.dev.regs.storeFrom regSec.toNat [encSec v.seconds, encMin v.minutes, encHr v.hours f] := by
  have hanswer := answerOf_enct_of_format hf v.seconds v.minutes v.hours
  exact run_of_sets h hq rfl (decodeRequest_encodeRequest _) (by rw [hanswer]) (by rw [hanswer]; rfl) rfl rfl

/-- GET_TIME: the three time registers are read, the block decodes them, and their time is returned (R197). -/
theorem run_getTime {s : State} {rest : List HostOp} {b0 b1 b2 : Byte} (h : s.Before .getTime rest) (hq : s.Quiet 5)
    (htime : (List.range' regSec.toNat 3).map s.dev.regs.byte = [b0, b1, b2]) :
    ∃ t, run 6 s = .next t ∧ t.todo = [] ∧ t.program = rest ∧ t.dev.regs = s.dev.regs ∧
      t.returned = s.returned ++ [.time (answerDect b0 b1 b2).time] :=
  run_of_gets (result := fun r => .time r.time) (i := .dect b0 b1 b2) h hq rfl (by decide)
    (congrArg (fun bs => decodeRequest (Request.ofBytes opDect bs)) htime) (fun _ => rfl)

/-- Settles O58: SET_TIME stores the three images from 0x00 on, and GET_TIME decodes what it reads there. -/
theorem setTimeThenGetTimeReturnsIt : Obligations.SetTimeThenGetTimeReturnsIt := by
  intro s v rest hbefore hquiet hsec hmin hrange
  obtain ⟨f, hf, hcode, hhr⟩ := format_of_timeInRange hrange
  obtain ⟨t, hrun, hdo, hprog, hret, hregs⟩ := run_setTime (n := 5) hbefore hquiet hf
  have hstored := Memory.map_byte_storeFrom s.dev.regs regSec.toNat
    [encSec v.seconds, encMin v.minutes, encHr v.hours f]
  obtain ⟨u, hrun', htodo, hprog', -, hret'⟩ :=
    run_getTime ⟨hdo.turn, hdo.todo, hprog, hdo.transport⟩ hdo.quiet (hregs ▸ hstored)
  refine ⟨u, (hrun 6).trans hrun', ?_, hprog', htodo⟩
  rw [hret', hret, answerDect_time_of_encoded hcode (hsec.trans (by decide)) (hmin.trans (by decide)) hhr,
    List.append_assoc]
  rfl

/-! ### The answers of ENCT and DECT (R150, R151) -/

/-- Settles O18: the three formats' answers and the reserved code's. -/
theorem enctGivesTimeRegisterBytes : Obligations.EnctGivesTimeRegisterBytes := by
  intro sec min hr fmt s a
  have ha : answerOf (.enct sec min hr fmt) = a := by
    obtain rfl | rfl | rfl | rfl := format_code_cases fmt <;> rfl
  rw [← ha]
  exact ⟨exec_eq_respond _ s, fun _ h hr => step_gives_answerOf h hr (decodeRequest_of_opEnct rfl)⟩

/-- Settles O20: each field of the answer is its byte function's value as a number. -/
theorem dectGivesTimeValue : Obligations.DectGivesTimeValue := by
  intro b0 b1 b2 s a
  have ha : answerOf (.dect b0 b1 b2) = a := by
    simp only [a, ← decHrFormat_code, ← decSec_toNat, ← bcd2b_toNat, ← decHrHours_toNat, BitVec.ofNat_toNat,
      BitVec.setWidth_eq]
    rfl
  rw [← ha]
  exact ⟨exec_eq_respond _ s, fun _ _ h hr => step_gives_answerOf h hr (decodeRequest_of_opDect rfl)⟩

/-- Settles O21: the digits' fields bound the numbers, and no format's code is the reserved one. -/
theorem decodedTimeBoundsAndFormat : Obligations.DecodedTimeBoundsAndFormat := by
  intro b0 b1 b2 s
  have hb0 := decSec_toNat b0
  have hb2 := decHrHours_toNat b2
  refine ⟨_, exec_eq_respond (.dect b0 b1 b2) s, ?_, bcd2b_le b1, ?_, formatCode_ne_reserved _, fun h12 => ?_,
    fun h24 => ?_⟩
  · change (decSec b0).toNat ≤ 85
    omega
  · refine (decHrFormat_code b2).trans ?_
    cases b2.getLsbD 6 <;> cases b2.getLsbD 5 <;> rfl
  · change (decHrHours b2).toNat ≤ 25
    rw [if_pos h12] at hb2
    omega
  · change (decHrHours b2).toNat ≤ 45
    rw [if_neg (Bool.eq_false_iff.1 h24)] at hb2
    omega

/-- Settles O19: the forced bits are the format code's, and the others the BCD byte's. -/
theorem timeRegisterBytesBitByBit : Obligations.TimeRegisterBytesBitByBit := by
  intro sec min hr fmt s hfmt
  obtain ⟨f, hf, rfl⟩ := formatOfCode_of_ne_reserved hfmt
  have hbit (k : Nat) : (b2bcd hr).getLsbD k = (hr.toNat / 10 % 16 * 16 + hr.toNat % 10).testBit k := by
    rw [← BitVec.testBit_toNat, b2bcd_toNat]
  refine ⟨_, exec_enct_of_format hf sec min hr s, encSec_toNat sec, b2bcd_toNat min, ?_, ?_, ?_, ?_⟩
  · exact (encHr_bit6 hr f).trans (formatCode_bit1 f).symm
  · intro h12
    have hne : f ≠ .h24 := of_decide_eq_true ((formatCode_bit1 f).symm.trans h12)
    exact (encHr_bit5 hr hne).trans (formatCode_bit0 f).symm
  · intro h24
    obtain rfl : f = .h24 := not_not.1 (of_decide_eq_false ((formatCode_bit1 f).symm.trans h24))
    exact (encHr_h24_bit5 hr).trans (hbit 5)
  · rintro k (rfl | hk)
    · exact (encHr_bit7 hr f).trans (hbit 7)
    · exact (encHr_getLsbD_low hr f (by omega)).trans (hbit k)

/-- Settles O29: ENCT masks the bit, or answers the illegal response, and CHKHALT's byte is 0x00. -/
theorem noSecondsByteSetsClockHalt : Obligations.NoSecondsByteSetsClockHalt := by
  intro i s hi
  refine ⟨_, exec_eq_respond i s, ?_⟩
  change (answerOf i).q0.getLsbD 7 = false
  cases i with
  | enct sec min hr fmt =>
    obtain hnone | ⟨f, hf⟩ := Option.eq_none_or_eq_some (formatOfCode fmt)
    · simp only [answerOf, answerEnct, hnone]
      rfl
    · rw [answerOf_enct_of_format hf]
      exact encSec_bit7 sec
  | chkhalt b => exact BitVec.getLsbD_zero
  | _ => exact hi.elim

end Sys2Proof.Machine

namespace Sys2Proof.Machine

/-! ### The date codec (R162 to R164) -/

/-- The low nibble of a valid BCD byte is a decimal digit (R15, R137). -/
theorem b2bcd_bcd2b_of_validBcd {b : Byte} (h : validBcd b = true) : b2bcd (bcd2b b) = b := by
  obtain ⟨-, hlow⟩ : highNibble b ≤ 9 ∧ lowNibble b ≤ 9 := of_decide_eq_true h
  exact (b2bcd_bcd2b_eq_iff b).2 hlow

/-- Settles O32: each lane goes through its two byte functions, apart from the others. -/
theorem dateRoundTrip : Obligations.DateRoundTrip :=
  ⟨fun day date month year s hday hdate hmonth hyear =>
      ⟨_, _, exec_eq_respond (.encd day date month year) s, exec_eq_respond (.decd _ _ _ _) _,
        bcd2b_b2bcd hday, bcd2b_b2bcd hdate, bcd2b_b2bcd hmonth, bcd2b_b2bcd hyear⟩,
    fun b0 b1 b2 b3 s h0 h1 h2 h3 =>
      ⟨_, _, exec_eq_respond (.decd b0 b1 b2 b3) s, exec_eq_respond (.encd _ _ _ _) _,
        b2bcd_bcd2b_of_validBcd h0, b2bcd_bcd2b_of_validBcd h1, b2bcd_bcd2b_of_validBcd h2,
        b2bcd_bcd2b_of_validBcd h3⟩⟩

/-- Settles O22: each lane is the BCD byte of its field, and the unread format leaves the decoded instruction the same. -/
theorem encdGivesDateRegisterBytes : Obligations.EncdGivesDateRegisterBytes := by
  intro day date month year s a
  have ha : answerOf (.encd day date month year) = a := by
    simp only [a, ← b2bcd_eq_ofNat]
    rfl
  rw [← ha]
  exact ⟨exec_eq_respond _ s, fun _ h hr => step_gives_answerOf h hr (decodeRequest_of_opEncd rfl)⟩

/-- Settles O23: the unread format leaves the decoded instruction the same. -/
theorem decdGivesDateValue : Obligations.DecdGivesDateValue :=
  fun b0 b1 b2 b3 s =>
    ⟨exec_eq_respond (.decd b0 b1 b2 b3) s, fun _ h hr => step_gives_answerOf h hr (decodeRequest_of_opDecd rfl)⟩

end Sys2Proof.Machine


namespace Sys2Proof.Machine

/-! ### The control family (R170 to R174) -/

/-- A select value up to 5 is one of the six modes' (R99). -/
theorem select_cases_of_le {sel : Byte} (h : sel.toNat ≤ 5) :
    sel = 0#8 ∨ sel = 1#8 ∨ sel = 2#8 ∨ sel = 3#8 ∨ sel = 4#8 ∨ sel = 5#8 := by
  bv_omega

/-- Settles O24: a legal select value is one of six, and a reserved one has the illegal answer. -/
theorem encsqwGivesControlByte : Obligations.EncsqwGivesControlByte := by
  intro sel s a
  have ha : answerOf (.encsqw sel) = a := by
    obtain ⟨hle, -⟩ | ⟨hgt, hm⟩ := mode_select_cases sel
    · obtain rfl | rfl | rfl | rfl | rfl | rfl := select_cases_of_le hle <;> rfl
    · exact (answerEncsqw_of_reserved hm).trans (if_pos hgt).symm
  rw [← ha]
  exact ⟨exec_eq_respond _ s, fun _ _ _ _ h hr => step_gives_answerOf h hr (decodeRequest_of_opEncsqw rfl)⟩

/-- The clock-halt bit is the top bit of its byte (R173). -/
theorem chBit_eq_decide (b : Byte) : chBit b = decide (128 ≤ b.toNat) :=
  b.msb_eq_getLsbD_last.symm.trans b.msb_eq_decide

/-- Settles O25: `halted` and `wr_req` are the top bit, and the unread format and lanes leave the decoded instruction the
same. -/
theorem chkhaltTestsClockHaltBit : Obligations.ChkhaltTestsClockHaltBit := by
  intro b s a
  have ha : answerOf (.chkhalt b) = a := by
    simp only [a, ← chBit_eq_decide]
    rfl
  rw [← ha]
  exact ⟨exec_eq_respond _ s, fun _ _ _ _ h hr => step_gives_answerOf h hr (decodeRequest_of_opChkhalt rfl)⟩

end Sys2Proof.Machine

namespace Sys2Proof.Machine

/-! ### What a receive leaves of the host and the wires (R190) -/

@[simp] theorem State.gotBytes_req (s : State) (raw : Bool) (n : Nat) (ok : Bool) :
    (s.gotBytes raw n ok).req = s.req := by
  obtain ⟨-, h, -⟩ := gotBytes_frame s raw n ok
  exact h

@[simp] theorem State.gotBytes_turn (s : State) (raw : Bool) (n : Nat) (ok : Bool) :
    (s.gotBytes raw n ok).turn = s.turn := by
  obtain ⟨-, -, -, h, -⟩ := gotBytes_frame s raw n ok
  exact h

@[simp] theorem State.gotBytes_todo (s : State) (raw : Bool) (n : Nat) (ok : Bool) :
    (s.gotBytes raw n ok).todo = s.todo := by
  obtain ⟨-, -, -, -, -, -, h, -⟩ := gotBytes_frame s raw n ok
  exact h

@[simp] theorem State.gotBytes_returned (s : State) (raw : Bool) (n : Nat) (ok : Bool) :
    (s.gotBytes raw n ok).returned = s.returned := by
  obtain ⟨-, -, -, -, -, -, -, h, -⟩ := gotBytes_frame s raw n ok
  exact h

@[simp] theorem State.length_gotBytes_received (s : State) (raw : Bool) (n : Nat) (ok : Bool) :
    (s.gotBytes raw n ok).received.length = n :=
  State.length_takeBytes _ _ _ _ _ _

@[simp] theorem State.gotBytes_calls (s : State) (raw : Bool) (n : Nat) (ok : Bool) :
    (s.gotBytes raw n ok).calls = s.calls ++ [.receive devAddr n (s.gotBytes raw n ok).received] := rfl

/-! ### The step of a call that ends -/

section
variable {s : State} {a : HostAct} {more : List HostAct} {o : CallOutcome}

/-- The step of an action that sends, by the outcome of its event. -/
theorem step_sends_of_ends {buf : List Byte} (hturn : s.turn = .host) (htodo : s.todo = a :: more)
    (htr : s.transport = true) (ho : s.event.outcome = o) (hh : o ≠ .hangs) (ha : a.sends s.rsp = some buf) :
    step s = .next ((({ s with todo := more } : State).sent a.payloadAlone buf).afterCall o) := by
  rw [step_acts hturn htodo, run_of_sends (s := { s with todo := more }) ha]
  exact send_of_ends _ buf htr ho hh

/-- The step of a receive, by the outcome of its event. -/
theorem step_receives_of_ends {raw : Bool} {n : Nat} (hturn : s.turn = .host) (htodo : s.todo = .receive raw n :: more)
    (htr : s.transport = true) (ho : s.event.outcome = o) (hh : o ≠ .hangs) :
    step s = .next ((({ s with todo := more } : State).gotBytes raw n (decide (o = .returns))).afterCall o) := by
  rw [step_acts hturn htodo]
  exact receive_of_ends raw n htr ho hh

end

/-! ### A call that fails (R191, R231) -/

/-- After a failed call the sequence goes on with `more`, or it has stopped with the error. -/
theorem afterCall_fails {s t : State} {more : List HostAct} (hparams : t.params = s.params)
    (hprogram : t.program = s.program) (htodo : t.todo = more) (hreturned : t.returned = s.returned) :
    (t.afterCall .fails).program = s.program ∧
    (s.params.transportFallible = false →
      (t.afterCall .fails).todo = more ∧ (t.afterCall .fails).returned = s.returned) ∧
    (s.params.transportFallible = true →
      (t.afterCall .fails).todo = [] ∧ (t.afterCall .fails).returned = s.returned ++ [.transportError]) := by
  refine ⟨(State.afterCall_program ..).trans hprogram, fun hf => ?_, fun hf => ?_⟩
  · rw [State.afterCall_of_not_fallible t .fails (hparams ▸ hf)]
    exact ⟨htodo, hreturned⟩
  · rw [State.afterCall_of_fallible t (hparams ▸ hf)]
    exact ⟨rfl, congrArg (· ++ _) hreturned⟩

/-- Settles O54: the call is recorded before its failure is looked at. -/
theorem failedCallDefaultAndFallible : Obligations.FailedCallDefaultAndFallible := by
  intro s a more e es hturn htr htodo henv hfails stops
  have ho : s.event.outcome = .fails := (State.event_of_env_cons s henv).symm ▸ hfails
  refine ⟨fun buf ha => ?_, ?_⟩
  · refine ⟨_, step_sends_of_ends hturn htodo htr ho (by decide) ha, by simp [devAddr], by simp, ?_⟩
    exact afterCall_fails (by simp) (by simp) (by simp) (by simp)
  · rintro raw n rfl
    refine ⟨_, step_receives_of_ends hturn htodo htr ho (by decide), by simp [devAddr], by simp, ?_⟩
    exact afterCall_fails (by simp) (by simp) (by simp) (by simp)

/-! ### A register read (R193, R201) -/

/-- A transfer that reaches a register reaches every one on its way (R62). -/
theorem reaches_of_le {p : Params} {raw : Bool} {start a b : Nat} (h : p.reaches raw start b = true) (ha : start ≤ a)
    (hab : a ≤ b) : p.reaches raw start a = true := by
  have hreg : isRegister b = true → isRegister a = true := by
    simp only [isRegister, decide_eq_true_eq]; omega
  have hram : p.inRam start = true → p.inRam b = true → p.inRam a = true := by
    simp only [Params.inRam, decide_eq_true_eq]; omega
  cases raw with
  | true =>
    obtain ⟨hstart, hb⟩ := Bool.and_eq_true_iff.1 h
    exact Bool.and_eq_true_iff.2 ⟨hstart, hram hstart hb⟩
  | false =>
    simp only [Params.reaches, Bool.false_eq_true, if_false, Params.sameRegion, Bool.or_eq_true, Bool.and_eq_true] at h ⊢
    exact h.imp (And.imp_right hreg) fun ⟨hstart, hb⟩ => ⟨hstart, hram hstart hb⟩

/-- Settles O41: the pointer is set, and each byte received is the register's that the transfer has come to. -/
theorem registerReadReturnsContents : Obligations.RegisterReadReturnsContents := by
  intro s raw addr n htr hq _ hreach
  have hsent := sent_of_quiet hq [addr]
  have hq' : (s.sent false [addr]).Quiet (n + 1) := hsent ▸ hq.dropEvent.2
  have htr' : (s.sent false [addr]).transport = true := by simpa using htr
  have hrecv := receive_of_ends raw n htr' hq'.head.1 (by decide)
  have hreach' : ∀ j < n, s.params.reaches raw addr.toNat (addr.toNat + j) = true := fun j hj =>
    reaches_of_le hreach (by omega) (by omega)
  rw [State.afterCall_of_returns, decide_eq_true rfl, gotBytes_of_quiet hq' (by rw [hsent]; exact hreach')] at hrecv
  have hptr : (s.sent false [addr]).dev = { s.dev with ptr := addr } := by rw [hsent]; rfl
  refine ⟨_, _, send_of_quiet htr hq false [addr], hrecv, ?_, by simp, fun i hi => ?_⟩
  · simp [devAddr]
  · simp [hptr, hi, -State.sent_dev]

/-! ### A sequence, action by action

What each action of a sequence does where its call ends unobserved: the calls it adds to the record, and what stays. -/

/-- The host is about to do `todo`, with its transport. -/
structure State.AboutTo (s : State) (todo : List HostAct) : Prop where
  turn      : s.turn = .host
  todo      : s.todo = todo
  transport : s.transport = true

/-- From `s` to `t` the host made the calls `cs`, and neither the block nor the program nor the results have changed. -/
structure State.CallsOnly (s t : State) (cs : List Call) : Prop where
  calls    : t.calls = s.calls ++ cs
  params   : t.params = s.params
  req      : t.req = s.req
  rsp      : t.rsp = s.rsp
  program  : t.program = s.program
  returned : t.returned = s.returned

/-- From `s` to `t` the block has answered `r`, without a call, a change of the device or a result. -/
structure State.Answered (s t : State) (r : Request) : Prop where
  rsp      : t.rsp = codecResponse r.word
  calls    : t.calls = s.calls
  dev      : t.dev = s.dev
  env      : t.env = s.env
  program  : t.program = s.program
  returned : t.returned = s.returned

/-- What the answer is to an instruction's request. -/
theorem State.Answered.rsp_eq_answerOf {s t : State} {r : Request} {i : Instr} (h : s.Answered t r)
    (hi : decodeRequest r = .instr i) : t.rsp = answerOf i :=
  h.rsp.trans (codecResponse_word hi)

theorem State.CallsOnly.trans {s t u : State} {cs ds : List Call} (h : s.CallsOnly t cs) (h' : t.CallsOnly u ds) :
    s.CallsOnly u (cs ++ ds) where
  calls    := by rw [h'.calls, h.calls, List.append_assoc]
  params   := h'.params.trans h.params
  req      := h'.req.trans h.req
  rsp      := h'.rsp.trans h.rsp
  program  := h'.program.trans h.program
  returned := h'.returned.trans h.returned

/-- A sequence begun is about to do its expansion. -/
theorem State.Before.aboutTo {s : State} {op : HostOp} {rest : List HostOp} (h : s.Before op rest) :
    (s.begin op rest).AboutTo op.expand :=
  ⟨h.turn, rfl, h.transport⟩

/-- An outcome is unobserved if the call returned, or if no failure is looked at (R191). -/
theorem State.afterCall_of_unobserved {s : State} {o : CallOutcome}
    (h : o = .returns ∨ s.params.transportFallible = false) : s.afterCall o = s := by
  rcases h with rfl | h
  · exact State.afterCall_of_returns s
  · exact State.afterCall_of_not_fallible s o h

section
variable {s : State} {a : HostAct} {more : List HostAct}

/-- The step of a send that ends unobserved, and what it does to a device that changes nothing on its own. -/
theorem State.AboutTo.step_sends {buf : List Byte} (h : s.AboutTo (a :: more)) (hends : s.event.outcome ≠ .hangs)
    (hgoes : s.event.outcome = .returns ∨ s.params.transportFallible = false) (ha : a.sends s.rsp = some buf) :
    ∃ t, step s = .next t ∧ t.AboutTo more ∧ s.CallsOnly t [.send devAddr buf] ∧ t.env = s.env.tail ∧
      (s.event.Still → t.dev = s.dev.afterSend s.params s.event a.payloadAlone buf) := by
  refine ⟨({ s with todo := more } : State).sent a.payloadAlone buf, ?_, ?_, ?_, ?_, ?_⟩
  · rw [step_sends_of_ends h.turn h.todo h.transport rfl hends ha, State.afterCall_of_unobserved (by simpa using hgoes)]
  · exact ⟨by simpa using h.turn, by simp, by simpa using h.transport⟩
  · constructor <;> simp
  · simp [State.dropEvent_env]
  · rintro ⟨hbefore, hafter⟩
    have hevent : ({ s with todo := more } : State).event = s.event := rfl
    simp [hevent, hbefore, hafter]

/-- The step of a send that returns. -/
theorem State.AboutTo.step_sends_of_returning {buf : List Byte} {n : Nat} (h : s.AboutTo (a :: more))
    (hr : s.Returning (n + 1)) (ha : a.sends s.rsp = some buf) :
    ∃ t, step s = .next t ∧ t.AboutTo more ∧ t.Returning n ∧ s.CallsOnly t [.send devAddr buf] := by
  obtain ⟨hout, -⟩ := hr.head
  obtain ⟨t, hstep, habout, hcalls, henv, -⟩ := h.step_sends (hout ▸ by decide) (.inl hout) ha
  exact ⟨t, hstep, habout, hr.after (k := 1) (by omega) (henv.trans List.drop_one.symm), hcalls⟩

/-- The step of a receive that returns. -/
theorem State.AboutTo.step_receives_of_returning {raw : Bool} {m n : Nat} (h : s.AboutTo (.receive raw m :: more))
    (hr : s.Returning (n + m + 1)) :
    ∃ t, step s = .next t ∧ t.AboutTo more ∧ t.Returning n ∧ t.received.length = m ∧
      s.CallsOnly t [.receive devAddr m t.received] := by
  have hstep := step_receives_of_ends h.turn h.todo h.transport hr.head.1 (by decide)
  rw [State.afterCall_of_returns] at hstep
  refine ⟨_, hstep, ?_, hr.after (k := m + 1) (by omega) (State.gotBytes_env ..), by simp, ?_⟩
  · exact ⟨by simpa using h.turn, by simp, by simpa using h.transport⟩
  · constructor <;> simp

/-- The conditional write of a legal response is a send exactly if the block asks for it (R195). -/
theorem State.AboutTo.step_writeImageIfRequested (h : s.AboutTo (.writeImageIfRequested :: more)) (hr : s.Returning 1)
    (hlegal : s.rsp.illegal = false) :
    ∃ t, step s = .next t ∧ t.AboutTo more ∧ s.CallsOnly t (if s.rsp.wrReq then [.send devAddr s.rsp.frame] else []) := by
  cases hwr : s.rsp.wrReq with
  | true =>
    obtain ⟨t, hstep, habout, -, hcalls⟩ :=
      h.step_sends_of_returning hr (buf := s.rsp.frame) (by simp [HostAct.sends, hlegal, hwr])
    exact ⟨t, hstep, habout, hcalls⟩
  | false =>
    refine ⟨{ s with todo := more }, ?_, ⟨h.turn, rfl, h.transport⟩, by constructor <;> simp⟩
    rw [step_acts h.turn h.todo]
    simp [HostAct.run, State.writeImageIfRequested, hlegal, hwr]

/-- The two steps in which a request is put on the wires and the block answers it. -/
theorem State.AboutTo.run_presents {r : Request} (h : s.AboutTo (a :: more))
    (ha : a.run { s with todo := more } = .next (({ s with todo := more } : State).presentRequest r)) :
    ∃ t, (∀ k, run (k + 2) s = run k t) ∧ t.AboutTo more ∧ s.Answered t r :=
  ⟨_, fun k => (run_succ (k + 1) ((step_acts h.turn h.todo).trans ha)).trans (run_succ k (step_answers rfl)),
    ⟨rfl, rfl, h.transport⟩, ⟨rfl, rfl, rfl, rfl, rfl, rfl⟩⟩

/-- The last step of a sequence, which returns a value. -/
theorem State.AboutTo.run_gives {x : HostResult} (h : s.AboutTo [a])
    (ha : a.run { s with todo := [] } = .next (({ s with todo := [] } : State).endSequence x)) :
    run 1 s = .next (({ s with todo := [] } : State).endSequence x) := by
  rw [run_succ 0 ((step_acts h.turn h.todo).trans ha), run_zero]

end

/-! ### A register read at the beginning of a sequence (R193, R201) -/

section
variable {s : State} {op : HostOp} {rest : List HostOp} {more : List HostAct} {addr : Byte} {m : Nat}

/-- After three steps `m` bytes have come back, in two calls. -/
theorem run_of_reads {raw : Bool} {n : Nat} (h : s.Before op rest) (hr : s.Returning (n + m + 2))
    (hop : op.expand = .pointer addr :: .receive raw m :: more) :
    ∃ t, (∀ k, run (k + 3) s = run k t) ∧ t.AboutTo more ∧ t.Returning n ∧ t.received.length = m ∧
      (s.begin op rest).CallsOnly t [.send devAddr [addr], .receive devAddr m t.received] := by
  have hbegun : (s.begin op rest).Returning (n + m + 1 + 1) := hr
  obtain ⟨t₂, hstep₂, habout₂, hr₂, hcalls₂⟩ := (hop ▸ h.aboutTo).step_sends_of_returning hbegun rfl
  obtain ⟨t₃, hstep₃, habout₃, hr₃, hlen, hcalls₃⟩ := habout₂.step_receives_of_returning hr₂
  refine ⟨t₃, fun k => ?_, habout₃, hr₃, hlen, hcalls₂.trans hcalls₃⟩
  rw [run_succ (k + 2) (step_begins h), run_succ (k + 1) hstep₂, run_succ k hstep₃]

/-- In a quiet environment these bytes are what the registers hold. -/
theorem received_of_reads_of_quiet {t : State} (h : s.Before op rest) (hq : s.Quiet (m + 2))
    (hop : op.expand = .pointer addr :: .receive false m :: more) (hregs : ∀ j < m, isRegister (addr.toNat + j) = true)
    (hrun : run 3 s = .next t) : t.received = (List.range' addr.toNat m).map s.dev.regs.byte := by
  obtain ⟨t₂, t₃, hstep₂, hstep₃, -, -, -, -, hgot⟩ :=
    State.Doing.steps_readRegisters (n := 0) (hop ▸ h.doing hq) hregs
  rw [run_succ 2 (step_begins h), run_succ 1 hstep₂, run_succ 0 hstep₃, run_zero] at hrun
  cases hrun
  exact hgot

end

/-! ### RAM_READ and RAM_WRITE (R201, R202) -/

/-- Settles O50: the bytes of the read are returned as they came. -/
theorem ramReadReturnsRawBytes : Obligations.RamReadReturnsRawBytes := by
  intro s rest address n hbefore hreturning
  obtain ⟨t, hrun, habout, -, hlen, hcalls⟩ := run_of_reads (n := 0) hbefore (by simpa using hreturning) rfl
  exact ⟨_, (hrun 1).trans (habout.run_gives rfl), hlen, hcalls.calls, congrArg (· ++ _) hcalls.returned, hcalls.req,
    hcalls.rsp, rfl, hcalls.program⟩

/-- RAM_WRITE, step by step, where its second call ends unobserved: the pointer is set, and on a device that changes nothing
on its own the payload's send does to it what its event says. -/
theorem run_ramWrite {s : State} {rest : List HostOp} {address : Byte} {bytes : List Byte} {e₁ e₂ : EnvEvent}
    {es : List EnvEvent} (h : s.Before (.ramWrite address bytes) rest) (henv : s.env = e₁ :: e₂ :: es)
    (h₁ : e₁.outcome = .returns) (h₂ : e₂.outcome ≠ .hangs)
    (hgoes : e₂.outcome = .returns ∨ s.params.transportFallible = false) :
    ∃ t, run 4 s = .next (({ t with todo := [] } : State).endSequence .nothing) ∧
      (s.begin (.ramWrite address bytes) rest).CallsOnly t [.send devAddr [address], .send devAddr bytes] ∧
      (e₁.Still → e₂.Still → t.dev = ({ s.dev with ptr := address } : Device).afterSend s.params e₂ true bytes) := by
  have hevent₁ : (s.begin (.ramWrite address bytes) rest).event = e₁ := State.event_of_env_cons _ henv
  have hout₁ := hevent₁.symm ▸ h₁
  obtain ⟨t₂, hstep₂, habout₂, hcalls₂, henv₂, hdev₂⟩ := h.aboutTo.step_sends (hout₁ ▸ by decide) (.inl hout₁) rfl
  have hevent₂ : t₂.event = e₂ := State.event_of_env_cons t₂ (henv₂.trans (congrArg List.tail henv))
  obtain ⟨t₃, hstep₃, habout₃, hcalls₃, -, hdev₃⟩ :=
    habout₂.step_sends (hevent₂.symm ▸ h₂) (by rw [hevent₂, hcalls₂.params]; exact hgoes) rfl
  refine ⟨t₃, ?_, hcalls₂.trans hcalls₃, fun hstill₁ hstill₂ => ?_⟩
  · rw [run_succ 3 (step_begins h), run_succ 2 hstep₂, run_succ 1 hstep₃, habout₃.run_gives rfl]
  · rw [hdev₃ (hevent₂.symm ▸ hstill₂), hdev₂ (hevent₁.symm ▸ hstill₁), hevent₂, hevent₁, hcalls₂.params]
    simp [Device.afterSend, h₁, Device.takeFrame, HostAct.payloadAlone]

/-- Two events in which every call returns. -/
theorem State.Returning.two_events {s : State} (h : s.Returning 2) :
    ∃ e₁ e₂ es, s.env = e₁ :: e₂ :: es ∧ e₁.outcome = .returns ∧ e₂.outcome = .returns := by
  obtain ⟨hlen, hev⟩ := h
  match henv : s.env with
  | [] | [_] => simp [henv] at hlen
  | e₁ :: e₂ :: es => exact ⟨e₁, e₂, es, rfl, hev e₁ (by simp [henv]), hev e₂ (by simp [henv])⟩

/-- Settles O51: a failure of the payload's send leaves the device where the pointer's send left it. -/
theorem ramWriteMakesTwoSends : Obligations.RamWriteMakesTwoSends := by
  intro s rest address bytes hbefore
  refine ⟨fun hreturning => ?_, fun e₁ e₂ es henv hret₁ hstill₁ hfails₂ hstill₂ hfallible => ?_⟩
  · obtain ⟨e₁, e₂, es, henv, h₁, h₂⟩ := hreturning.two_events
    obtain ⟨t, hrun, hcalls, -⟩ := run_ramWrite hbefore henv h₁ (h₂ ▸ by decide) (.inl h₂)
    exact ⟨_, hrun, hcalls.calls, congrArg (· ++ _) hcalls.returned, hcalls.req, hcalls.rsp, rfl, hcalls.program⟩
  · obtain ⟨t, hrun, hcalls, hdev⟩ := run_ramWrite hbefore henv hret₁ (hfails₂ ▸ by decide) (.inr hfallible)
    have hleft : t.dev = { s.dev with ptr := address } := by
      rw [hdev hstill₁ hstill₂]
      simp [Device.afterSend, hfails₂]
    exact ⟨_, hrun, (congrArg Device.ptr hleft :), (congrArg Device.regs hleft :), hcalls.calls,
      congrArg (· ++ _) hcalls.returned⟩

/-! ### INIT (R195) -/

/-- INIT, step by step: the byte read is tested, and the write is made exactly if its top bit is set. -/
theorem run_init {s : State} {rest : List HostOp} (h : s.Before .init rest) (hr : s.Returning 4) :
    ∃ t b, run 7 s = .next t ∧ t.todo = [] ∧ t.program = rest ∧ t.rsp = answerChkhalt b ∧
      t.returned = s.returned ++ [.halted (b.getLsbD 7)] ∧
      t.calls = s.calls ++ [.send devAddr [regSec], .receive devAddr 1 [b]] ++
        (if b.getLsbD 7 then [.send devAddr [regSec, 0x00]] else []) ∧
      (s.Quiet 4 → b = s.dev.regs.byte 0x00) := by
  obtain ⟨t₃, hrun₃, habout₃, hr₃, hlen, hcalls₃⟩ := run_of_reads (n := 1) h hr rfl
  obtain ⟨b, hb⟩ := List.length_eq_one_iff.1 hlen
  obtain ⟨t₅, hrun₅, habout₅, hans₅⟩ := habout₃.run_presents rfl
  have hrsp₅ : t₅.rsp = answerChkhalt b := by
    rw [hans₅.rsp_eq_answerOf (decodeRequest_of_opChkhalt rfl), hb]
    rfl
  obtain ⟨t₆, hstep₆, habout₆, hcalls₆⟩ :=
    habout₅.step_writeImageIfRequested (hr₃.after (k := 0) (by decide) hans₅.env) (hrsp₅ ▸ rfl)
  have hrsp₆ : t₆.rsp = answerChkhalt b := hcalls₆.rsp.trans hrsp₅
  have hrun₆ : run 7 s = run 1 t₆ := by rw [hrun₃ 4, hrun₅ 2, run_succ 1 hstep₆]
  refine ⟨_, b, hrun₆.trans (habout₆.run_gives rfl), rfl, ?_, hrsp₆, ?_, ?_, fun hq => ?_⟩
  · exact (hcalls₆.program.trans hans₅.program).trans hcalls₃.program
  · rw [State.endSequence_returned, hrsp₆]
    exact congrArg (· ++ _) ((hcalls₆.returned.trans hans₅.returned).trans hcalls₃.returned)
  · refine hcalls₆.calls.trans ?_
    rw [hans₅.calls, hcalls₃.calls, hb, hrsp₅]
    rfl
  · have hgot := received_of_reads_of_quiet h (hq.mono (by decide)) rfl (by decide) (hrun₃ 0)
    exact List.singleton_inj.1 (hb.symm.trans hgot)

/-- Settles O43: the write is the one CHKHALT asks for. -/
theorem initWritesExactlyWhenHalted : Obligations.InitWritesExactlyWhenHalted := by
  intro s rest hbefore hreturning
  obtain ⟨t, b, hrun, htodo, hprog, -, hret, hcalls, hquiet⟩ := run_init hbefore hreturning
  exact ⟨t, b, hrun, htodo, hprog, hret, hcalls, hquiet⟩

/-! ### GET_TIME and GET_DATE (R197, R199) -/

/-- A sequence that reads registers into the block: it returns what the block's answer to the bytes received says. -/
theorem run_of_gets_of_returning {s : State} {op : HostOp} {rest : List HostOp} {addr : Byte} {m : Nat} {code : BitVec 4}
    {give : HostAct} {result : Response → HostResult} (h : s.Before op rest) (hr : s.Returning (m + 2))
    (hop : op.expand = [.pointer addr, .receive false m, .presentReceived code, give])
    (hgive : ∀ t : State, give.run t = .next (t.endSequence (result t.rsp))) :
    ∃ t bs, run 6 s = .next t ∧ bs.length = m ∧
      t.calls = s.calls ++ [.send devAddr [addr], .receive devAddr m bs] ∧
      t.returned = s.returned ++ [result (codecResponse (Request.ofBytes code bs).word)] ∧ t.todo = [] ∧
      t.program = rest := by
  obtain ⟨t₃, hrun₃, habout₃, -, hlen, hcalls⟩ := run_of_reads (n := 0) h (by simpa using hr) hop
  obtain ⟨t₅, hrun₅, habout₅, hans⟩ := habout₃.run_presents rfl
  refine ⟨_, t₃.received, (hrun₃ 3).trans ((hrun₅ 1).trans (habout₅.run_gives (hgive _))), hlen,
    hans.calls.trans hcalls.calls, ?_, rfl, hans.program.trans hcalls.program⟩
  rw [State.endSequence_returned, ← hans.rsp]
  exact congrArg (· ++ _) (hans.returned.trans hcalls.returned)

/-- Settles O46: three bytes are received, and DECT decodes them. -/
theorem getTimeReturnsDecodedBytes : Obligations.GetTimeReturnsDecodedBytes := by
  intro s rest hbefore hreturning
  obtain ⟨t, bs, hrun, hlen, hcalls, hret, htodo, hprog⟩ :=
    run_of_gets_of_returning (result := fun r => .time r.time) hbefore hreturning rfl fun _ => rfl
  obtain ⟨b0, b1, b2, rfl⟩ := List.length_eq_three.1 hlen
  rw [codecResponse_word (decodeRequest_of_opDect rfl)] at hret
  exact ⟨t, _, b0, b1, b2, hrun, exec_eq_respond (.dect b0 b1 b2) s, hcalls, hret, htodo, hprog⟩

/-- Settles O48: four bytes are received, and DECD decodes them. -/
theorem getDateReturnsDecodedBytes : Obligations.GetDateReturnsDecodedBytes := by
  intro s rest hbefore hreturning
  obtain ⟨t, bs, hrun, hlen, hcalls, hret, htodo, hprog⟩ :=
    run_of_gets_of_returning (result := fun r => .date r.date) hbefore hreturning rfl fun _ => rfl
  obtain ⟨b0, b1, b2, b3, rfl⟩ : ∃ b0 b1 b2 b3, bs = [b0, b1, b2, b3] :=
    match bs, hlen with | [b0, b1, b2, b3], _ => ⟨b0, b1, b2, b3, rfl⟩
  rw [codecResponse_word (decodeRequest_of_opDecd rfl)] at hret
  exact ⟨t, _, b0, b1, b2, b3, hrun, exec_eq_respond (.decd b0 b1 b2 b3) s, hcalls, hret, htodo, hprog⟩

/-! ### SET_TIME, SET_DATE and SET_SQW (R196, R198, R200) -/

section
variable {s : State} {op : HostOp} {rest : List HostOp} {i : Instr}

/-- A sequence that sets registers: the image of its legal request's answer is sent in one frame. -/
theorem run_of_sets_of_returning (h : s.Before op rest) (hr : s.Returning 1)
    (hop : op.expand = [.present (encodeRequest i), .writeImage, .giveNothing]) (hi : i.wellFormed = true) :
    ∃ t, run 5 s = .next t ∧ t.calls = s.calls ++ [.send devAddr (answerOf i).frame] ∧
      t.returned = s.returned ++ [.nothing] ∧ t.todo = [] ∧ t.program = rest := by
  obtain ⟨t₃, hrun₃, habout₃, hans⟩ := (hop ▸ h.aboutTo).run_presents rfl
  have hsends : HostAct.writeImage.sends t₃.rsp = some (answerOf i).frame := by
    rw [hans.rsp_eq_answerOf (decodeRequest_encodeRequest i)]
    simp [HostAct.sends, answerOf_illegal, hi]
  obtain ⟨t₄, hstep₄, habout₄, -, hcalls⟩ :=
    habout₃.step_sends_of_returning (n := 0) (hr.after (k := 0) (by decide) hans.env) hsends
  have hrun₄ : run 5 s = run 1 t₄ := by rw [run_succ 4 (step_begins h), hrun₃ 2, run_succ 1 hstep₄]
  exact ⟨_, hrun₄.trans (habout₄.run_gives rfl), hans.calls ▸ hcalls.calls,
    congrArg (· ++ _) (hcalls.returned.trans hans.returned), rfl, hcalls.program.trans hans.program⟩

/-- Where its request is illegal it ends without a call (R233). -/
theorem run_of_sets_of_illegal (h : s.Before op rest)
    (hop : op.expand = [.present (encodeRequest i), .writeImage, .giveNothing]) (hi : i.wellFormed = false) :
    ∃ t, run 4 s = .next t ∧ t.calls = s.calls ∧ t.dev = s.dev ∧ t.returned = s.returned ++ [.illegalRequest] ∧
      t.todo = [] ∧ t.program = rest := by
  obtain ⟨t₃, hrun₃, habout₃, hans⟩ := (hop ▸ h.aboutTo).run_presents rfl
  have hillegal : t₃.rsp.illegal = true := by
    rw [hans.rsp_eq_answerOf (decodeRequest_encodeRequest i), answerOf_illegal, hi]
    rfl
  have hstep₄ : step t₃ = .next (({ t₃ with todo := [.giveNothing] } : State).endSequence .illegalRequest) := by
    rw [step_acts habout₃.turn habout₃.todo]
    simp [HostAct.run, State.writeImage, hillegal]
  have hrun₄ := (run_succ 3 (step_begins h)).trans ((hrun₃ 1).trans (run_succ 0 hstep₄))
  exact ⟨_, hrun₄, hans.calls, hans.dev, congrArg (· ++ _) hans.returned, rfl, hans.program⟩

end

/-- The first byte of a payload stored is what its register then holds (R62). -/
theorem Memory.byte_storeFrom_head (m : Memory) (a : Nat) (v : Byte) (vs : List Byte) :
    (m.storeFrom a (v :: vs)).byte a = v :=
  Memory.byte_of_read (Memory.read_storeFrom (v :: vs) m a 0 (Nat.succ_pos _))

/-- Settles O45: the seconds byte stored has its clock-halt bit clear. -/
theorem setTimeSendsOneFrame : Obligations.SetTimeSendsOneFrame := by
  intro s rest v hbefore hreturning hformat
  obtain ⟨f, hf, -⟩ := formatOfCode_of_ne_reserved hformat
  obtain ⟨t, hrun, hcalls, hret, htodo, hprog⟩ :=
    run_of_sets_of_returning hbefore hreturning rfl (bne_iff_ne.2 hformat)
  rw [answerOf_enct_of_format hf] at hcalls
  refine ⟨t, _, hrun, exec_enct_of_format hf _ _ _ s, hcalls, hret, htodo, hprog, fun hquiet => ?_⟩
  obtain ⟨u, hrun', -, -, -, hregs⟩ := run_setTime (n := 0) hbefore hquiet hf
  obtain rfl : t = u := Host.Outcome.next.inj (hrun.symm.trans (hrun' 0))
  have hsec : t.dev.regs.byte regSec.toNat = encSec v.seconds :=
    hregs ▸ Memory.byte_storeFrom_head ..
  exact (congrArg chBit hsec).trans (encSec_bit7 _)

/-- Settles O47: the answer's image is the four bytes of the date. -/
theorem setDateSendsOneFrame : Obligations.SetDateSendsOneFrame := by
  intro s rest v hbefore hreturning
  obtain ⟨t, hrun, hcalls, hret, htodo, hprog⟩ := run_of_sets_of_returning hbefore hreturning rfl rfl
  exact ⟨t, _, hrun, exec_eq_respond (.encd v.day v.date v.month v.year) s, hcalls, hret, htodo, hprog⟩

/-- The six control bytes set the pin to the modes they stand for (R38, R171). -/
theorem modeOfControlByte_sqwByte (m : SqwMode) : modeOfControlByte (sqwByte m) = some m := by cases m <;> rfl

/-- Settles O49: a legal select value's control byte is sent, and stored where the pin is read off; a reserved one makes the
request illegal. -/
theorem setSquareWaveSendsOneFrame : Obligations.SetSquareWaveSendsOneFrame := by
  intro s rest mode hbefore
  obtain ⟨hle, m, hm⟩ | ⟨hgt, -⟩ := mode_select_cases mode
  · refine ⟨fun _ hreturning => ?_, fun hgt => absurd hle (Nat.not_le.2 hgt)⟩
    have hanswer : answerOf (.encsqw mode) = _ := answerEncsqw_of_mode hm
    obtain ⟨t, hrun, hcalls, hret, htodo, hprog⟩ :=
      run_of_sets_of_returning hbefore hreturning rfl (decide_eq_true hle)
    refine ⟨t, _, hrun, exec_eq_respond (.encsqw mode) s, ?_, hret, htodo, hprog, fun hquiet => ?_⟩
    · rw [hcalls, State.respond_rsp, hanswer]
      rfl
    · obtain ⟨u, hrun', -, -, -, hregs⟩ := run_of_sets (i := .encsqw mode) (n := 0) hbefore hquiet rfl rfl
        (by rw [hanswer]) (by rw [hanswer]; rfl) rfl rfl
      obtain rfl : t = u := Host.Outcome.next.inj (hrun.symm.trans (hrun' 0))
      have hctrl : t.dev.regs.byte regCtrl.toNat = sqwByte m :=
        hregs ▸ Memory.byte_storeFrom_head ..
      rw [Device.squareWavePin, hctrl, modeOfControlByte_sqwByte, hm]
  · exact ⟨fun hle => absurd hle (Nat.not_le.2 hgt), fun _ =>
      run_of_sets_of_illegal hbefore rfl (decide_eq_false (Nat.not_le.2 hgt))⟩

/-! ### How many calls a sequence makes (R204) -/

/-- The counts of the calls made since a state whose record the later one continues. -/
theorem counts_of_calls {s t : State} {cs : List Call} (h : t.calls = s.calls ++ cs) :
    (sendCount (s.callsSince t), receiveCount (s.callsSince t)) = (sendCount cs, receiveCount cs) := by
  rw [State.callsSince, h, List.drop_left]

/-- Settles O52, operation by operation, by the calls each is settled to make. -/
theorem transportCallsPerSequence : Obligations.TransportCallsPerSequence := by
  intro s op rest hbefore hreturning hlegal
  cases op with
  | request r =>
    obtain ⟨t₃, hrun₃, habout₃, hans⟩ := hbefore.aboutTo.run_presents (r := r) rfl
    have hrun := (run_succ 3 (step_begins hbefore)).trans ((hrun₃ 1).trans (habout₃.run_gives rfl))
    exact ⟨_, hrun, rfl, hans.program, counts_of_calls (hans.calls.trans (List.append_nil _).symm)⟩
  | init =>
    obtain ⟨t, b, hrun, htodo, hprog, hrsp, -, hcalls, -⟩ := run_init hbefore hreturning
    refine ⟨t, hrun, htodo, hprog, ?_⟩
    have hhalted : t.rsp.halted = b.getLsbD 7 := hrsp ▸ rfl
    rw [List.append_assoc] at hcalls
    refine (counts_of_calls hcalls).trans ?_
    rw [hhalted]
    cases b.getLsbD 7 <;> rfl
  | setTime v =>
    obtain ⟨t, _, hrun, -, hcalls, -, htodo, hprog, -⟩ :=
      setTimeSendsOneFrame s rest v hbefore hreturning (bne_iff_ne.1 hlegal)
    exact ⟨t, hrun, htodo, hprog, counts_of_calls hcalls⟩
  | getTime =>
    obtain ⟨t, _, _, _, _, hrun, -, hcalls, -, htodo, hprog⟩ := getTimeReturnsDecodedBytes s rest hbefore hreturning
    exact ⟨t, hrun, htodo, hprog, counts_of_calls hcalls⟩
  | setDate v =>
    obtain ⟨t, _, hrun, -, hcalls, -, htodo, hprog⟩ := setDateSendsOneFrame s rest v hbefore hreturning
    exact ⟨t, hrun, htodo, hprog, counts_of_calls hcalls⟩
  | getDate =>
    obtain ⟨t, _, _, _, _, _, hrun, -, hcalls, -, htodo, hprog⟩ := getDateReturnsDecodedBytes s rest hbefore hreturning
    exact ⟨t, hrun, htodo, hprog, counts_of_calls hcalls⟩
  | setSquareWave mode =>
    obtain ⟨t, _, hrun, -, hcalls, -, htodo, hprog, -⟩ :=
      (setSquareWaveSendsOneFrame s rest mode hbefore).1 (of_decide_eq_true hlegal) hreturning
    exact ⟨t, hrun, htodo, hprog, counts_of_calls hcalls⟩
  | ramRead address n =>
    obtain ⟨t, hrun, -, hcalls, -, -, -, htodo, hprog⟩ := ramReadReturnsRawBytes s rest address n hbefore hreturning
    exact ⟨t, hrun, htodo, hprog, counts_of_calls hcalls⟩
  | ramWrite address bytes =>
    obtain ⟨t, hrun, hcalls, -, -, -, htodo, hprog⟩ :=
      (ramWriteMakesTwoSends s rest address bytes hbefore).1 hreturning
    exact ⟨t, hrun, htodo, hprog, counts_of_calls hcalls⟩

end Sys2Proof.Machine

namespace Sys2Proof.Machine

/-! ### An image of an illegal response is not written (R233) -/

/-- An illegal response ends the sequence at either action that writes an image. -/
theorem run_image_of_illegal {s : State} {a : HostAct} (ha : a = .writeImage ∨ a = .writeImageIfRequested)
    (hillegal : s.rsp.illegal = true) : a.run s = .next (s.endSequence .illegalRequest) := by
  obtain rfl | rfl := ha
  · exact if_pos hillegal
  · exact if_pos hillegal

/-- Settles O53: the step is the action at the head of the sequence, and ending the sequence keeps all else. -/
theorem illegalResponseStopsSequence : Obligations.IllegalResponseStopsSequence :=
  fun _ _ _ hturn htodo ha hillegal => (step_acts hturn htodo).trans (run_image_of_illegal ha hillegal)

end Sys2Proof.Machine

namespace Sys2Proof.Machine

/-! ### Which stops there are (R263, U16) -/

/-- From `s` an outcome is a next state or one of the transport's two stops, for that stop's own cause. -/
def TransportStopsOnly (s : State) (o : Host.Outcome State Fault Refusal) : Prop :=
  (∃ t, o = .next t) ∨ (s.transport = false ∧ o = .fault .noTransport) ∨
    (s.transport = true ∧ s.event.outcome = .hangs ∧ o = .fault .transportHang)

theorem send_stops (s : State) (pa : Bool) (buf : List Byte) : TransportStopsOnly s (s.send pa buf) := by
  obtain h | h | ⟨-, -, h⟩ := send_cases s pa buf
  · exact .inr (.inl h)
  · exact .inr (.inr h)
  · exact .inl ⟨_, h⟩

theorem receive_stops (s : State) (raw : Bool) (n : Nat) : TransportStopsOnly s (s.receive raw n) := by
  obtain h | h | ⟨-, -, h⟩ := receive_cases s raw n
  · exact .inr (.inl h)
  · exact .inr (.inr h)
  · exact .inl ⟨_, h⟩

/-- An action that makes no call answers a next state. -/
theorem run_next_of_no_call {s : State} {a : HostAct} (hsends : a.sends s.rsp = none)
    (hreceives : ∀ raw n, a ≠ .receive raw n) : ∃ t, a.run s = .next t := by
  cases a with
  | pointer | payload => cases hsends
  | receive raw n => exact absurd rfl (hreceives raw n)
  | writeImage =>
    have hillegal : s.rsp.illegal = true := by simpa [HostAct.sends] using hsends
    exact ⟨_, if_pos hillegal⟩
  | writeImageIfRequested =>
    cases hillegal : s.rsp.illegal with
    | true => exact ⟨_, if_pos hillegal⟩
    | false =>
      have hwr : s.rsp.wrReq = false := by simpa [HostAct.sends, hillegal] using hsends
      exact ⟨s, by simp [HostAct.run, State.writeImageIfRequested, hillegal, hwr]⟩
  | present | presentReceived | giveResponse | giveHalted | giveTime | giveDate | giveBytes | giveNothing => exact ⟨_, rfl⟩

/-- An action sends, receives, or makes no call. -/
theorem run_stops (s : State) (a : HostAct) : TransportStopsOnly s (a.run s) := by
  cases hsends : a.sends s.rsp with
  | some buf => exact run_of_sends hsends ▸ send_stops s a.payloadAlone buf
  | none =>
    by_cases hreceives : ∃ raw n, a = .receive raw n
    · obtain ⟨raw, n, rfl⟩ := hreceives
      exact receive_stops s raw n
    · exact .inl (run_next_of_no_call hsends fun raw n h => hreceives ⟨raw, n, h⟩)

theorem hostMove_stops (s : State) : TransportStopsOnly s s.hostMove := by
  cases htodo : s.todo with
  | cons a more => exact hostMove_of_todo htodo ▸ run_stops { s with todo := more } a
  | nil =>
    cases hprogram : s.program with
    | cons op rest => exact .inl ⟨_, hostMove_of_program htodo hprogram⟩
    | nil => exact .inl ⟨s, by simp only [State.hostMove, htodo, hprogram]⟩

/-- The block's move answers, so a step that stops is a host move. -/
theorem step_stops (s : State) : (∃ t, step s = .next t) ∨ (s.mover = .host ∧ TransportStopsOnly s (step s)) := by
  cases hmover : s.mover with
  | block => exact .inl ⟨_, step_of_block hmover⟩
  | host => exact .inr ⟨rfl, step_of_host hmover ▸ hostMove_stops s⟩

/-- A call is not made without the transport (R263). -/
theorem run_call_without_transport {s : State} {a : HostAct}
    (ha : (a.sends s.rsp).isSome = true ∨ ∃ raw n, a = .receive raw n) (htr : s.transport = false) :
    a.run s = .fault .noTransport := by
  have hnot : ¬ s.transport = true := htr ▸ Bool.false_ne_true
  obtain hsends | ⟨raw, n, rfl⟩ := ha
  · obtain ⟨buf, hbuf⟩ := Option.isSome_iff_exists.1 hsends
    exact (run_of_sends hbuf).trans (if_neg hnot)
  · exact if_neg hnot

/-- Settles O55, by the three outcomes of a host move. -/
theorem stopsAreTransportStops : Obligations.StopsAreTransportStops := by
  intro s
  have hcall : ∀ a more, s.turn = .host → s.todo = a :: more →
      ((a.sends s.rsp).isSome = true ∨ ∃ raw n, a = .receive raw n) → s.transport = false →
      step s = .fault .noTransport := fun a more hturn htodo ha htr =>
    (step_acts hturn htodo).trans (run_call_without_transport (s := { s with todo := more }) ha htr)
  obtain ⟨t, h⟩ | ⟨hmover, ⟨t, h⟩ | ⟨htr, h⟩ | ⟨htr, hhangs, h⟩⟩ := step_stops s
  · exact ⟨by simp [h], by simp [h], by simp [h], hcall⟩
  · exact ⟨by simp [h], by simp [h], by simp [h], hcall⟩
  · exact ⟨by simp [h], fun _ => ⟨htr, hmover⟩, by simp [h], hcall⟩
  · exact ⟨by simp [h], by simp [h], fun _ => ⟨htr, hmover, hhangs⟩, hcall⟩

/-! ### A general-purpose read outside its block (R264, R272, U7) -/

/-- The bytes are those of the events, one for each (log 26). -/
theorem takeBytes_outside_ram (ok : Bool) {start : Nat} (n : Nat) : ∀ (i : Nat) (s : State), n ≤ s.env.length →
    s.params.inRam start = false →
    (State.takeBytes true ok start n i s).1 = (s.env.take n).map EnvEvent.byte := by
  induction n with
  | zero => exact fun _ _ _ _ => rfl
  | succ n ih =>
    intro i s hlen hout
    cases henv : s.env with
    | nil => simp [henv] at hlen
    | cons e es =>
      have hlen' : n ≤ es.length := by simpa [henv] using hlen
      have htail := ih (i + 1) { s with env := es, dev := s.dev.tick e.before } hlen' hout
      simp [State.takeBytes, State.event_of_env_cons s henv, State.dropEvent_of_env_cons s henv, htail, Device.content,
        Params.reaches, hout]

/-- The call's own event comes first, and none of its fields is a byte of the read. -/
theorem gotBytes_received_outside_ram {s : State} (ok : Bool) {n : Nat} (hlen : n + 1 ≤ s.env.length)
    (hout : s.params.inRam s.dev.ptr.toNat = false) :
    (s.gotBytes true n ok).received = (s.env.tail.take n).map EnvEvent.byte := by
  refine (takeBytes_outside_ram ok n 0 _ ?_ (by simpa using hout)).trans ?_
  · simpa [State.dropEvent_env] using Nat.le_sub_of_add_le hlen
  · simp [State.dropEvent_env]

section
variable {s : State} {more : List HostAct}

/-- The step of a pointer's send that returns: the pointer is set (R29). -/
theorem State.AboutTo.step_pointer {address : Byte} (h : s.AboutTo (.pointer address :: more))
    (hret : s.event.outcome = .returns) :
    ∃ t, step s = .next t ∧ t.AboutTo more ∧ s.CallsOnly t [.send devAddr [address]] ∧ t.env = s.env.tail ∧
      t.dev.ptr = address := by
  obtain ⟨t, hstep, habout, hcalls, henv, -⟩ := h.step_sends (hret ▸ by decide) (.inl hret) rfl
  refine ⟨t, hstep, habout, hcalls, henv, ?_⟩
  have hsent := step_sends_of_ends h.turn h.todo h.transport hret (by decide) rfl
  rw [State.afterCall_of_returns, hstep] at hsent
  cases hsent
  have hevent : ({ s with todo := more } : State).event = s.event := rfl
  simp [hevent, Device.afterSend, hret, Device.takeFrame, HostAct.payloadAlone]

/-- The step of a raw receive that returns, where the pointer stands outside the block. -/
theorem State.AboutTo.step_receives_outside_ram {n : Nat} (h : s.AboutTo (.receive true n :: more))
    (hr : s.Returning (n + 1)) (hout : s.params.inRam s.dev.ptr.toNat = false) :
    ∃ t, step s = .next t ∧ t.AboutTo more ∧ t.received = (s.env.tail.take n).map EnvEvent.byte ∧
      t.returned = s.returned := by
  have hr' : s.Returning (0 + n + 1) := by simpa using hr
  obtain ⟨t, hstep, habout, -, -, hcalls⟩ := h.step_receives_of_returning hr'
  refine ⟨t, hstep, habout, ?_, hcalls.returned⟩
  have hgot := step_receives_of_ends h.turn h.todo h.transport hr.head.1 (by decide)
  rw [State.afterCall_of_returns, hstep] at hgot
  cases hgot
  exact gotBytes_received_outside_ram (s := { s with todo := more }) _ hr.1 hout

end

/-- RAM_READ outside the block, step by step: what it returns is a function of the events alone. -/
theorem run_ramRead_outside_ram {s : State} {rest : List HostOp} {address : Byte} {n : Nat}
    (h : s.Before (.ramRead address n) rest) (hr : s.Returning (n + 2)) (hout : s.params.inRam address.toNat = false) :
    ∃ t, run 4 s = .next t ∧ t.received = (s.env.tail.tail.take n).map EnvEvent.byte ∧
      t.returned = s.returned ++ [.bytes ((s.env.tail.tail.take n).map EnvEvent.byte)] := by
  have hbegun : (s.begin (.ramRead address n) rest).Returning (n + 1 + 1) := hr
  obtain ⟨t₂, hstep₂, habout₂, hcalls₂, henv₂, hptr₂⟩ := h.aboutTo.step_pointer hbegun.head.1
  have hr₂ : t₂.Returning (n + 1) := hbegun.after (k := 1) (by omega) (henv₂.trans List.drop_one.symm)
  have hout₂ : t₂.params.inRam t₂.dev.ptr.toNat = false := by rw [hcalls₂.params, hptr₂]; exact hout
  obtain ⟨t₃, hstep₃, habout₃, hreceived₃, hreturned₃⟩ := habout₂.step_receives_outside_ram hr₂ hout₂
  rw [henv₂, State.begin_env] at hreceived₃
  refine ⟨({ t₃ with todo := [] } : State).endSequence (.bytes t₃.received), ?_, hreceived₃, ?_⟩
  · rw [run_succ 3 (step_begins h), run_succ 2 hstep₂, run_succ 1 hstep₃, habout₃.run_gives rfl]
  · rw [State.endSequence_returned, hreceived₃]
    exact congrArg (· ++ _) (hreturned₃.trans hcalls₂.returned)

/-- Settles O60: other registers leave the events as they are, and the bytes come from these. -/
theorem ramReadOutsideRamShowsNoRegister : Obligations.RamReadOutsideRamShowsNoRegister := by
  intro s rest address n regs h hr hout
  obtain ⟨t, hrun, hreceived, hreturned⟩ := run_ramRead_outside_ram h hr hout
  have h' : ({ s with dev := { s.dev with regs := regs } } : State).Before (.ramRead address n) rest :=
    ⟨h.turn, h.todo, h.program, h.transport⟩
  obtain ⟨t', hrun', hreceived', hreturned'⟩ := run_ramRead_outside_ram h' hr hout
  exact ⟨t, t', hrun, hrun', hreceived'.trans hreceived.symm, hreturned'.trans hreturned.symm⟩

end Sys2Proof.Machine

namespace Sys2Proof.Machine

/-! ### The digits of B2BCD, 100 and above among them (R130, R133) -/

/-- The high nibble keeps the low four bits of the tens (R133). -/
theorem highNibble_b2bcd (v : Byte) : highNibble (b2bcd v) = v.toNat / 10 % 16 := by
  rw [highNibble, b2bcd_toNat]
  omega

/-- The low nibble is the ones digit, out of range too. -/
theorem lowNibble_b2bcd (v : Byte) : lowNibble (b2bcd v) = v.toNat % 10 := by
  rw [lowNibble, b2bcd_toNat]
  omega

/-- Settles O27: of a byte's tens, at most 25, the high nibble holds all up to 15 (159) and loses one 16 from there on. -/
theorem b2bcdOutOfRangeValues : Obligations.B2bcdOutOfRangeValues := by
  intro v s hv
  have htens : (s.respond (answerOf (.b2bcd v))).rsp.q0.toNat / 16 = v.toNat / 10 % 16 := highNibble_b2bcd v
  refine ⟨_, exec_eq_respond (.b2bcd v) s, rfl, fun hlow => ?_, fun hhigh => ?_, lowNibble_b2bcd v⟩
  · rw [htens, Nat.mod_eq_of_lt (show v.toNat / 10 < 16 by omega)]
    omega
  · have := v.isLt
    rw [htens]
    omega

/-! ### What a receive leaves of the registers (R67) -/

/-- The device changes its registers before the call, before each byte and after the call: 0x00 to 0x06 only, each time. -/
theorem gotBytes_read_other (s : State) (raw : Bool) (n : Nat) (ok : Bool) {a : Nat} (ha : 6 < a) :
    (s.gotBytes raw n ok).dev.regs.read a = s.dev.regs.read a :=
  calc (s.gotBytes raw n ok).dev.regs.read a
    _ = (State.takeBytes raw ok s.dev.ptr.toNat n 0
          { s.dropEvent with dev := s.dev.tick s.event.before }).2.dev.regs.read a := Memory.read_tick_other _ ha _
    _ = (s.dev.tick s.event.before).regs.read a := takeBytes_read_other raw ok _ n ha 0 _
    _ = s.dev.regs.read a := Memory.read_tick_other _ ha _

/-- Settles O42, by everything a receive can do: the stops answer no next state, and what follows the call is the host's. -/
theorem receiveLeavesOtherRegisters : Obligations.ReceiveLeavesOtherRegisters := by
  intro s t raw n h a ha
  obtain ⟨-, hstop⟩ | ⟨-, -, hstop⟩ | ⟨-, -, hnext⟩ := receive_cases s raw n
  · simp [hstop] at h
  · simp [hstop] at h
  · rw [hnext] at h
    cases h
    rw [State.afterCall_dev, gotBytes_read_other s raw n _ ha]

/-! ### The reset state -/

/-- Settles O35: the response at reset is the answer to the request at reset, B2BCD of 0. -/
theorem resetHasInvariant : Obligations.ResetHasInvariant where
  memory := rfl
  params := rfl
  answer := ⟨State.reset.fetch, rfl⟩
  calls := List.forall_mem_nil _

end Sys2Proof.Machine
